-- ==== Sys2Proof/Word.lean ====
section
/-! DEFINITION. The widths the block works with (00_scope.md R8, R10): every datum is unsigned, and a character code, a
glyph code, a command byte and a frame are one byte. -/

namespace Sys2Proof

/-- An 8-bit value: a character code, a glyph code, a command byte or a frame (R10). -/
abbrev Byte := BitVec 8

/-- A nibble, the half of a byte that one enable pulse carries (R10, R48). -/
abbrev Nibble := BitVec 4

/-- A 7-bit address: the transport target's, or one of the display's DDRAM addresses (R10, R46). -/
abbrev Addr7 := BitVec 7

/-- The host's command word, `op` in bits 10:8 and `arg` in bits 7:0 (R64). -/
abbrev CmdWord := BitVec 11

/-- A duration in microseconds, a lower bound (R11). -/
abbrev Micros := Nat

end Sys2Proof
end

