-- ==== Sys2Proof/Config.lean ====
section
/-! DEFINITION. The block's parameters as one record (00_scope.md R7) and the free values: the transport's answers, which
follow no law (R12), and the two parameters the spec leaves OPEN (R7; 92_eei_decisions.md D5, D6). The default values of
the parameters stand in Machine/Defaults.lean. -/

namespace Sys2Proof

/-- `ERR_POLICY` (R7, R144): what a message does after a failed byte. -/
inductive ErrPolicy where
  /-- stop at the first failed byte -/
  | abort
  /-- skip the rest of the failed byte and go on with the next character -/
  | continueOn
  deriving DecidableEq, Repr, Inhabited

/-- The parameter table of R7, one field a row.  A parameter is fixed when the block is built and no operation changes it. -/
structure Config where
  /-- `I2C_ADDR` -/
  i2cAddr : Addr7
  /-- `T_SETTLE` -/
  tSettle : Micros
  /-- `T_CMD` -/
  tCmd : Micros
  /-- `COLS` -/
  cols : Nat
  /-- `ROWS` -/
  rows : Nat
  /-- `ENC_LO` -/
  encLo : Byte
  /-- `ENC_HI` -/
  encHi : Byte
  /-- `FALLBACK` -/
  fallback : Byte
  /-- `CMD_FOURBIT` -/
  cmdFourbit : Byte
  /-- `CMD_FUNCSET` -/
  cmdFuncset : Byte
  /-- `CMD_DISPOFF` -/
  cmdDispoff : Byte
  /-- `CMD_CLEAR` -/
  cmdClear : Byte
  /-- `CMD_ENTRY` -/
  cmdEntry : Byte
  /-- `CMD_DISPON` -/
  cmdDispon : Byte
  /-- `CMD_HOME` -/
  cmdHome : Byte
  /-- `CMD_SETDDRAM` -/
  cmdSetddram : Byte
  /-- `ROW_BASE`, one DDRAM address a row -/
  rowBase : List Addr7
  /-- `SELFTEST_TEXT` -/
  selftestText : List Byte
  /-- `ERR_POLICY` -/
  errPolicy : ErrPolicy
  deriving DecidableEq, Repr

/-- `SELFTEST_TEXT` is OPEN (R7, D5): the spec gives no text, so this one is free.  [assumption log 2] -/
opaque Config.openSelftestText : List Byte

/-- `ERR_POLICY` is OPEN (R7, D6): the spec gives no default, so this one is free.  [assumption log 2] -/
opaque Config.openErrPolicy : ErrPolicy

/-- The oracle's answer to the `n`-th `T.begin()` that the state's script does not answer (R12): under no law.
[assumption log 1] -/
opaque Config.freeBegin : Nat → Bool

/-- The oracle's status for the `n`-th `T.write` that the state's script does not answer (R12): under no law.
[assumption log 1] -/
opaque Config.freeWrite : Nat → Int

end Sys2Proof
end

