-- ==== Sys2Proof/Machine/Defaults.lean ====
section
/-! DEFINITION. The default values of the parameter table (00_scope.md R7), each under its own name, and the record they
make.  The two OPEN parameters have no default and are arguments. -/

namespace Sys2Proof

/-- `I2C_ADDR` (R7, R42). -/
def Default.i2cAddr : Addr7 := 0x27
/-- `T_SETTLE`: 1.5 ms (R7). -/
def Default.tSettle : Micros := 1500
/-- `T_CMD`, equal to `T_SETTLE` (R7). -/
def Default.tCmd : Micros := 1500
/-- `COLS` (R7). -/
def Default.cols : Nat := 16
/-- `ROWS` (R7). -/
def Default.rows : Nat := 2
/-- `ENC_LO`, space (R7, R90). -/
def Default.encLo : Byte := 0x20
/-- `ENC_HI`, the closing brace character (R7, R90). -/
def Default.encHi : Byte := 0x7D
/-- `FALLBACK`, the question mark (R7, R91). -/
def Default.fallback : Byte := 0x3F
/-- `CMD_FOURBIT` (R7, R71). -/
def Default.cmdFourbit : Byte := 0x02
/-- `CMD_FUNCSET` (R7, R71). -/
def Default.cmdFuncset : Byte := 0x28
/-- `CMD_DISPOFF` (R7, R71). -/
def Default.cmdDispoff : Byte := 0x08
/-- `CMD_CLEAR` (R7, R71). -/
def Default.cmdClear : Byte := 0x01
/-- `CMD_ENTRY` (R7, R71). -/
def Default.cmdEntry : Byte := 0x06
/-- `CMD_DISPON` (R7, R71). -/
def Default.cmdDispon : Byte := 0x0C
/-- `CMD_HOME` (R7, R71). -/
def Default.cmdHome : Byte := 0x02
/-- `CMD_SETDDRAM` (R7, R71). -/
def Default.cmdSetddram : Byte := 0x80
/-- `ROW_BASE` (R7, R47). -/
def Default.rowBase : List Addr7 := [0x00, 0x40]

/-- The parameter table with its default values, for a given self-test text and failure policy (R7). -/
def Config.standard (text : List Byte) (policy : ErrPolicy) : Config where
  i2cAddr := Default.i2cAddr
  tSettle := Default.tSettle
  tCmd := Default.tCmd
  cols := Default.cols
  rows := Default.rows
  encLo := Default.encLo
  encHi := Default.encHi
  fallback := Default.fallback
  cmdFourbit := Default.cmdFourbit
  cmdFuncset := Default.cmdFuncset
  cmdDispoff := Default.cmdDispoff
  cmdClear := Default.cmdClear
  cmdEntry := Default.cmdEntry
  cmdDispon := Default.cmdDispon
  cmdHome := Default.cmdHome
  cmdSetddram := Default.cmdSetddram
  rowBase := Default.rowBase
  selftestText := text
  errPolicy := policy

/-- A DDRAM address that GOTO can name with the default map: one of `COLS` addresses from a row's base (R46, R73). -/
def Default.isNamedDdram (a : Addr7) : Bool :=
  Default.rowBase.any fun base => base.toNat ≤ a.toNat && a.toNat < base.toNat + Default.cols

end Sys2Proof
end

