-- ==== Sys2Proof/Syntax.lean ====
section
/-! DEFINITION. The rows of spec/opcode_table.json as one inductive, and the boundaries their words stand at
(30_encoding.md R60: the three encodings are at three different boundaries and must be kept apart). -/

namespace Sys2Proof

/-- The boundary at which a word of the opcode table stands (R60).  The same 8 bits mean different things at different
boundaries, so every decoding is relative to one. -/
inductive Boundary where
  /-- format H: the host's command word, laid out as two bytes, followed for MSG by its text (R64, R68) -/
  | host
  /-- format F: a frame on the transport (R61) -/
  | frame
  /-- format L0: the command byte sent before the display is in 4-bit mode (R71, R72) -/
  | entryCommand
  /-- format L: a command byte, sent with the register-select bit 0 (R71) -/
  | command
  /-- format G: a glyph byte, sent with the register-select bit 1 (R75) -/
  | glyph
  deriving DecidableEq, Repr

/-- One constructor per row of spec/opcode_table.json.  `arg` is the ignored operand field of a host word (R67), kept so
that no bit of the word is lost. -/
inductive Instr where
  /-- INIT (R120) -/
  | init (arg : Byte)
  /-- MSG and the text sequence that follows it (R143, R68) -/
  | msg (arg : Byte) (text : List Byte)
  /-- CLEAR (R145) -/
  | clear (arg : Byte)
  /-- HOME (R146) -/
  | home (arg : Byte)
  /-- GOTO (R147): `pos = arg` (R66) -/
  | goto (pos : Byte)
  /-- TEARDOWN (R127) -/
  | teardown (arg : Byte)
  /-- RESERVED_6 (R69) -/
  | reserved6 (arg : Byte)
  /-- RESERVED_7 (R69) -/
  | reserved7 (arg : Byte)
  /-- FRAME_EN_LOW (R61, R101): nibble, backlight bit, register-select bit -/
  | frameEnLow (nibble : Nibble) (bl rs : Bool)
  /-- FRAME_EN_HIGH (R61, R101) -/
  | frameEnHigh (nibble : Nibble) (bl rs : Bool)
  /-- FRAME_RW_SET (R63): nibble, backlight, enable and register-select bits of a frame with the read/write bit set -/
  | frameRwSet (nibble : Nibble) (bl en rs : Bool)
  /-- LCD_FOURBIT (R71, R122) -/
  | lcdFourbit
  /-- LCD_FUNCSET (R71, R122) -/
  | lcdFuncset
  /-- LCD_DISPOFF (R71, R123) -/
  | lcdDispoff
  /-- LCD_CLEAR (R71, R145) -/
  | lcdClear
  /-- LCD_ENTRY (R71, R123) -/
  | lcdEntry
  /-- LCD_DISPON (R71, R123) -/
  | lcdDispon
  /-- LCD_HOME (R71, R146) -/
  | lcdHome
  /-- LCD_SETDDRAM with its 7-bit address (R71, R73) -/
  | lcdSetddram (addr : Addr7)
  /-- GLYPH (R75) -/
  | glyph (g : Byte)
  /-- ENCODE (R90, R91), an internal primitive with no encoding (R14) -/
  | encode (c : Byte)
  /-- WRITE_NIBBLE (R100 to R102), internal: only bits 3:0 of the operand count (R62) -/
  | writeNibble (n : Byte)
  /-- WRITE_BYTE (R103, R104), internal -/
  | writeByte (code : Byte)
  /-- CMD_BYTE (R106), internal -/
  | cmdByte (b : Byte)
  deriving DecidableEq, Repr

/-- The operations the host can ask for, the two reserved words among them (R14, R65). -/
def Instr.isHost : Instr → Bool
  | .init _ | .msg _ _ | .clear _ | .home _ | .goto _ | .teardown _ | .reserved6 _ | .reserved7 _ => true
  | .frameEnLow _ _ _ | .frameEnHigh _ _ _ | .frameRwSet _ _ _ _ => false
  | .lcdFourbit | .lcdFuncset | .lcdDispoff | .lcdClear | .lcdEntry | .lcdDispon | .lcdHome | .lcdSetddram _ => false
  | .glyph _ | .encode _ | .writeNibble _ | .writeByte _ | .cmdByte _ => false

/-- The internal primitives, which have no encoding (R14). -/
def Instr.isInternal : Instr → Bool
  | .encode _ | .writeNibble _ | .writeByte _ | .cmdByte _ => true
  | .init _ | .msg _ _ | .clear _ | .home _ | .goto _ | .teardown _ | .reserved6 _ | .reserved7 _ => false
  | .frameEnLow _ _ _ | .frameEnHigh _ _ _ | .frameRwSet _ _ _ _ => false
  | .lcdFourbit | .lcdFuncset | .lcdDispoff | .lcdClear | .lcdEntry | .lcdDispon | .lcdHome | .lcdSetddram _ => false
  | .glyph _ => false

end Sys2Proof
end

