-- ==== Sys2Proof/WellFormed.lean ====
section
/-! DEFINITION. Which terms of `Instr` are words the block uses: a glyph byte is an output of ENCODE (30_encoding.md R75),
and a set-address command names an address of one of the two rows (R71, R73).  Every other term is well formed; a GOTO
operand above 31 is a legal word that the operation refuses when it runs (R66, R147). -/

namespace Sys2Proof

/-- The values a glyph byte can have: `0x20` to `0x7D` (R75). -/
def isGlyphByte (g : Byte) : Bool := decide (Default.encLo ≤ g) && decide (g ≤ Default.encHi)

/-- Well-formedness of an instruction as a word of the block (R71, R75). -/
def Instr.wf : Instr → Bool
  | .glyph g => isGlyphByte g
  | .lcdSetddram addr => Default.isNamedDdram addr
  | .init _ | .msg _ _ | .clear _ | .home _ | .goto _ | .teardown _ | .reserved6 _ | .reserved7 _ => true
  | .frameEnLow _ _ _ | .frameEnHigh _ _ _ | .frameRwSet _ _ _ _ => true
  | .lcdFourbit | .lcdFuncset | .lcdDispoff | .lcdClear | .lcdEntry | .lcdDispon | .lcdHome => true
  | .encode _ | .writeNibble _ | .writeByte _ | .cmdByte _ => true

end Sys2Proof
end

