-- ==== Sys2Proof/Decode.lean ====
section
/-! DEFINITION. The decoder, total on any bytes at any boundary and rejecting by name, and after it the encoder
(30_encoding.md; spec/opcode_table.json).  Command bytes are decoded at the default codes of R71, since those are the
codes the opcode table prints; the block itself never decodes one. -/

namespace Sys2Proof

/-- Why bytes are no word of the block at the boundary they stand at. -/
inductive DecodeError where
  /-- fewer bytes than the word takes -/
  | tooFewBytes
  /-- more bytes than the word takes (only MSG is followed by an operand, R68) -/
  | tooManyBytes
  /-- a host word has 11 bits (R64) and a bit above them is set -/
  | hostWordTooWide
  /-- a command byte the block never sends (R71, R74) -/
  | commandByteNeverSent
  /-- a set-address command byte whose address GOTO never names (R71, R73) -/
  | ddramAddressNeverSent
  /-- a glyph byte outside `0x20` to `0x7D`, never sent (R75) -/
  | glyphByteNeverSent
  deriving DecidableEq, Repr

/-! ## The host command word (format H) -/

/-- `cw[10:8]` (R64). -/
def opField (w : CmdWord) : BitVec 3 := w.extractLsb' 8 3

/-- `cw[7:0]` (R64). -/
def argField (w : CmdWord) : Byte := w.extractLsb' 0 8

/-- `op ‖ arg` (R8, R64). -/
def hostWord (op : BitVec 3) (arg : Byte) : CmdWord := op ++ arg

/-- The opcode map (R65, R69).  The text sequence is MSG's operand and no other operation takes one (R68). -/
def decodeCommand (w : CmdWord) (text : List Byte) : Instr :=
  match (opField w).toNat with
  | 0 => .init (argField w)
  | 1 => .msg (argField w) text
  | 2 => .clear (argField w)
  | 3 => .home (argField w)
  | 4 => .goto (argField w)
  | 5 => .teardown (argField w)
  | 6 => .reserved6 (argField w)
  | _ => .reserved7 (argField w)

/-- The two bytes a host word is laid out in, the low byte first.  [assumption log 4] -/
def hostWordBytes (w : CmdWord) : List Byte := [w.extractLsb' 0 8, (opField w).setWidth 8]

/-- A host request as bytes: the command word in two bytes, then MSG's text; nothing may follow another operation's word. -/
def decodeHostBytes : List Byte → Except DecodeError Instr
  | lo :: hi :: rest =>
    if hi.toNat < 8 then
      let i := decodeCommand (hostWord (hi.setWidth 3) lo) rest
      if hi = 1 ∨ rest = [] then .ok i else .error .tooManyBytes
    else .error .hostWordTooWide
  | _ => .error .tooFewBytes

/-! ## Frames, command bytes and glyph bytes (formats F, L0, L, G) -/

/-- A captured frame (R61, R63): `nibble = f[7:4]`, `BL = f[3]`, `EN = f[2]`, `RW = f[1]`, `RS = f[0]`. -/
def decodeFrame (f : Byte) : Instr :=
  let nibble := f.extractLsb' 4 4
  if f.getLsbD 1 then .frameRwSet nibble (f.getLsbD 3) (f.getLsbD 2) (f.getLsbD 0)
  else if f.getLsbD 2 then .frameEnHigh nibble (f.getLsbD 3) (f.getLsbD 0)
  else .frameEnLow nibble (f.getLsbD 3) (f.getLsbD 0)

/-- The byte sent before the display is in 4-bit mode (format L0, R71, R72). -/
def decodeEntryCommand (v : Byte) : Except DecodeError Instr :=
  if v = Default.cmdFourbit then .ok .lcdFourbit else .error .commandByteNeverSent

/-- The command bytes of format L (R71, R73). -/
def decodeCommandByte (v : Byte) : Except DecodeError Instr :=
  if v = Default.cmdFuncset then .ok .lcdFuncset
  else if v = Default.cmdDispoff then .ok .lcdDispoff
  else if v = Default.cmdClear then .ok .lcdClear
  else if v = Default.cmdEntry then .ok .lcdEntry
  else if v = Default.cmdDispon then .ok .lcdDispon
  else if v = Default.cmdHome then .ok .lcdHome
  else if v.getLsbD 7 then
    let addr : Addr7 := v.extractLsb' 0 7
    if Default.isNamedDdram addr then .ok (.lcdSetddram addr) else .error .ddramAddressNeverSent
  else .error .commandByteNeverSent

/-- A glyph byte (format G, R75). -/
def decodeGlyph (v : Byte) : Except DecodeError Instr :=
  if isGlyphByte v then .ok (.glyph v) else .error .glyphByteNeverSent

/-- One byte at one of the inner boundaries (R60). -/
def decodeInner (b : Boundary) (v : Byte) : Except DecodeError Instr :=
  match b with
  | .host => .error .tooFewBytes
  | .frame => .ok (decodeFrame v)
  | .entryCommand => decodeEntryCommand v
  | .command => decodeCommandByte v
  | .glyph => decodeGlyph v

/-- The decoder: total on any bytes at any boundary (R60). -/
def decode (b : Boundary) (bytes : List Byte) : Except DecodeError Instr :=
  match b, bytes with
  | .host, bs => decodeHostBytes bs
  | _, [] => .error .tooFewBytes
  | b, [v] => decodeInner b v
  | _, _ :: _ :: _ => .error .tooManyBytes

/-! ## The encoder -/

/-- An encoded instruction: the boundary its word stands at, and the bytes there. -/
structure Encoded where
  boundary : Boundary
  bytes : List Byte
  deriving DecidableEq, Repr

/-- `1 aaaaaaa` (R71, R73). -/
def setddramByte (addr : Addr7) : Byte := Default.cmdSetddram ||| addr.setWidth 8

/-- `[D7 D6 D5 D4][BL][EN][RW][RS]`, most significant bit first (R8, R61). -/
def frameBits (nibble : Nibble) (bl en rw rs : Bool) : Byte :=
  nibble ++ (BitVec.ofBool bl ++ (BitVec.ofBool en ++ (BitVec.ofBool rw ++ BitVec.ofBool rs)))

/-- The words of an instruction, from the encoding tables of 30_encoding.md and spec/opcode_table.json.  The internal
primitives have none (R14). -/
def encode : Instr → Option Encoded
  | .init arg => some ⟨.host, hostWordBytes (hostWord 0 arg)⟩
  | .msg arg text => some ⟨.host, hostWordBytes (hostWord 1 arg) ++ text⟩
  | .clear arg => some ⟨.host, hostWordBytes (hostWord 2 arg)⟩
  | .home arg => some ⟨.host, hostWordBytes (hostWord 3 arg)⟩
  | .goto pos => some ⟨.host, hostWordBytes (hostWord 4 pos)⟩
  | .teardown arg => some ⟨.host, hostWordBytes (hostWord 5 arg)⟩
  | .reserved6 arg => some ⟨.host, hostWordBytes (hostWord 6 arg)⟩
  | .reserved7 arg => some ⟨.host, hostWordBytes (hostWord 7 arg)⟩
  | .frameEnLow n bl rs => some ⟨.frame, [frameBits n bl false false rs]⟩
  | .frameEnHigh n bl rs => some ⟨.frame, [frameBits n bl true false rs]⟩
  | .frameRwSet n bl en rs => some ⟨.frame, [frameBits n bl en true rs]⟩
  | .lcdFourbit => some ⟨.entryCommand, [Default.cmdFourbit]⟩
  | .lcdFuncset => some ⟨.command, [Default.cmdFuncset]⟩
  | .lcdDispoff => some ⟨.command, [Default.cmdDispoff]⟩
  | .lcdClear => some ⟨.command, [Default.cmdClear]⟩
  | .lcdEntry => some ⟨.command, [Default.cmdEntry]⟩
  | .lcdDispon => some ⟨.command, [Default.cmdDispon]⟩
  | .lcdHome => some ⟨.command, [Default.cmdHome]⟩
  | .lcdSetddram addr => some ⟨.command, [setddramByte addr]⟩
  | .glyph g => some ⟨.glyph, [g]⟩
  | .encode _ | .writeNibble _ | .writeByte _ | .cmdByte _ => none

/-! ## The opcode table's numbering -/

/-- A byte whose boundary is not said: a command byte of format L if it is one, else a frame.  Only the table's own
numbering needs it: there three formats share the 8-bit numbers.  [assumption log 5] -/
def bareBoundary (v : Byte) : Boundary :=
  match decodeCommandByte v with
  | .ok _ => .command
  | .error _ => .frame

/-- The instruction the decoder reads from a row's bits as spec/opcode_table.json numbers them: an 8-bit number is one
byte whose boundary `bareBoundary` picks, an 11-bit number (two whole bytes) is a host word with an empty text. -/
def decodeTableWord (nbits w : Nat) : Option Instr :=
  if nbits = 8 ∧ w < 2 ^ 8 then
    (decode (bareBoundary (BitVec.ofNat 8 w)) [BitVec.ofNat 8 w]).toOption
  else if 8 < nbits ∧ nbits ≤ 16 ∧ w < 2 ^ 16 then
    (decode .host [BitVec.ofNat 8 w, BitVec.ofNat 8 (w / 2 ^ 8)]).toOption
  else none

/-- The opcode table's `match` and `mask` columns for an instruction's row, for the rows that have a width. -/
def tableMatchMask : Instr → Option (Nat × Nat)
  | .init _ => some (0x000, 0x700)
  | .msg _ _ => some (0x100, 0x700)
  | .clear _ => some (0x200, 0x700)
  | .home _ => some (0x300, 0x700)
  | .goto _ => some (0x400, 0x700)
  | .teardown _ => some (0x500, 0x700)
  | .reserved6 _ => some (0x600, 0x700)
  | .reserved7 _ => some (0x700, 0x700)
  | .frameEnLow _ _ _ => some (0x00, 0x06)
  | .frameEnHigh _ _ _ => some (0x04, 0x06)
  | .frameRwSet _ _ _ _ => some (0x02, 0x02)
  | .lcdFourbit => some (0x02, 0xFF)
  | .lcdFuncset => some (0x28, 0xFF)
  | .lcdDispoff => some (0x08, 0xFF)
  | .lcdClear => some (0x01, 0xFF)
  | .lcdEntry => some (0x06, 0xFF)
  | .lcdDispon => some (0x0C, 0xFF)
  | .lcdHome => some (0x02, 0xFF)
  | .lcdSetddram _ => some (0x80, 0x80)
  | .glyph _ => some (0x00, 0x00)
  | .encode _ | .writeNibble _ | .writeByte _ | .cmdByte _ => none

/-- The first word of an encoded instruction as the opcode table numbers its bits (a host word from its two bytes). -/
def Encoded.tableWord (e : Encoded) : Nat :=
  match e.boundary, e.bytes with
  | .host, lo :: hi :: _ => lo.toNat + 2 ^ 8 * hi.toNat
  | _, v :: _ => v.toNat
  | _, [] => 0

end Sys2Proof
end

