-- ==== Sys2Proof/Machine/State.lean ====
section
/-! DEFINITION. The whole state as plain data (10_state.md), the reasons a step can stop, and the state after reset (R33,
R180).  The block has no memory of its own (20_memory.md), no general registers (R27) and no program counter (R28). -/

namespace Sys2Proof.Machine

/-- The initialization phase (R20, R24).  Encodings 6 and 7 never occur, so the type has six values. -/
inductive Phase where
  | uninitialized | busReady | fourBitMode | configured | ready | failed
  deriving DecidableEq, Repr

/-- `registerSelect` (R20, R22). -/
inductive RegisterSelect where
  | command | character
  deriving DecidableEq, Repr

/-- `readWrite` (R20, R23): `read` never occurs. -/
inductive ReadWrite where
  | write | read
  deriving DecidableEq, Repr

/-- The status an operation returns (R161). -/
inductive Status where
  | ok | errInit | errIo | errState | errRange | errIllegal
  deriving DecidableEq, Repr

/-- The events of the trace (R13). -/
inductive Event where
  /-- `Begin->ok` (R41) -/
  | began (ok : Bool)
  /-- `SetAddr(a)` (R42) -/
  | setAddr (a : Addr7)
  /-- `Tx(b)->st` (R43) -/
  | tx (b : Byte) (st : Int)
  /-- `Wait(d)` (R11) -/
  | wait (d : Micros)
  /-- `End` (R44) -/
  | ended
  deriving DecidableEq, Repr

/-- The transport boundary (20_memory.md R40 to R44): the event trace so far, and the oracle (R12).  The answers the
oracle is to give next are scripted in `begins` and `writes`, oldest first; a call past the end of a script gets the free
value of its call number.  [assumption log 1] -/
structure Bus where
  /-- the event trace, oldest first (R13) -/
  trace : List Event
  /-- the answers to the `T.begin()` calls to come -/
  begins : List Bool
  /-- how many `T.begin()` calls were made -/
  beginCalls : Nat
  /-- the statuses of the `T.write` calls to come -/
  writes : List Int
  /-- how many `T.write` calls were made -/
  writeCalls : Nat
  deriving DecidableEq, Repr

/-- The items of an operation's list, level 1 of the expansion (R108, R130, R150). -/
inductive Item where
  /-- `SET phase p` -/
  | setPhase (p : Phase)
  /-- `SET backlightOn v` -/
  | setBacklight (v : Bool)
  /-- `SET registerSelect v` -/
  | setRegisterSelect (v : RegisterSelect)
  /-- `BEGIN` -/
  | bus
  /-- `ADDR` -/
  | addr
  /-- `CBYTE b`: a CMD_BYTE -/
  | cbyte (b : Byte)
  /-- `GBYTE c`: ENCODE, then WRITE_BYTE -/
  | gbyte (c : Byte)
  /-- `END` -/
  | release
  deriving DecidableEq, Repr

/-- Which nibble of a byte is being sent, high first (R48, R109). -/
inductive Half where
  | high | low
  deriving DecidableEq, Repr

/-- The states of the framing machine (R109). -/
inductive Framing where
  | idle
  | tx (nib : Half) (k : Fin 3)
  | wt (nib : Half) (k : Fin 3)
  | cw
  deriving DecidableEq, Repr

/-- An operation in progress, taken one event at a time: the sequencer position (R28), the registers of the framing
machine (R109), the operation's local error (R29) and the delay timer (R174).  None of it is architectural. -/
structure Run where
  /-- the operation in progress (R28 `op`) -/
  op : Instr
  /-- the index of the current item (R28 `item`) -/
  item : Nat
  /-- the items still to do, the current one first (R108) -/
  todo : List Item
  /-- the sticky error of the operation (R29, R120 `err`) -/
  err : Status
  /-- the framing state (R109); with it `nib`, `fr` and `sub` of R28 -/
  framing : Framing
  /-- the byte being sent (R109) -/
  cur : Byte
  /-- the base frame of the current nibble (R109) -/
  f : Byte
  /-- whether the last write failed (R109) -/
  fail : Bool
  /-- whether the byte is a CMD_BYTE (R109) -/
  iscmd : Bool
  /-- the delay timer: `none` when stopped, else the duration it was started with (R174) -/
  timer : Option Micros
  deriving DecidableEq, Repr

/-- An internal primitive with its operand, as a caller inside the block asks for it (R14). -/
inductive Primitive where
  | encode (c : Byte)
  | writeNibble (n : Byte)
  | writeByte (code : Byte)
  | cmdByte (b : Byte)
  deriving DecidableEq, Repr

/-- What is presented to the block next.  A host presents commands, reset or nothing (R6, R14, R74); `inner` and `primitive`
are the model's own access to the rows of the opcode table that are not host operations.  [assumption log 6] -/
inductive Input where
  /-- a command word, and the text that comes with it if it is MSG (R68, R70) -/
  | command (word : CmdWord) (text : List Byte)
  /-- the reset input is asserted (R180, R182) -/
  | reset
  /-- nothing is presented during this step: an idle block stays idle and a busy one goes on (R30), so that what follows,
  a reset in the middle of an operation above all (R182), comes a step later -/
  | pause
  /-- one byte at an inner boundary -/
  | inner (boundary : Boundary) (value : Byte)
  /-- a call of an internal primitive -/
  | primitive (p : Primitive)
  deriving DecidableEq, Repr

/-- What an internal primitive hands back to its caller: ENCODE a glyph code (R90), the others a status (R101). -/
inductive PrimResult where
  | glyph (g : Byte)
  | status (st : Status)
  deriving DecidableEq, Repr

/-- How a step runs a host command: whole (R70, R140) or one event of the sequencer at a time (R28, R109).
[assumption log 7] -/
inductive Granularity where
  | transaction
  | event
  deriving DecidableEq, Repr

/-- The state. -/
structure State where
  /-- `phase` (R20, R24) -/
  phase : Phase
  /-- `backlightOn` (R20, R21) -/
  backlightOn : Bool
  /-- `registerSelect` (R20, R22) -/
  registerSelect : RegisterSelect
  /-- `readWrite` (R20, R23) -/
  readWrite : ReadWrite
  /-- the sequencer: `none` when idle (R28) -/
  seq : Option Run
  /-- the transport boundary: the event trace and the oracle (R12, R13, R40) -/
  bus : Bus
  /-- the statuses returned to the host since reset, oldest first (R13 clause b, R160) -/
  statuses : List Status
  /-- the model's own: what the last internal primitive run as an instruction handed back.  [assumption log 6] -/
  primResult : Option PrimResult
  /-- what is presented to the block, the next first (R6, R50) -/
  inputs : List Input
  /-- the parameter table (R7) -/
  cfg : Config
  /-- the model's own: the size of a step.  [assumption log 7] -/
  granularity : Granularity
  deriving DecidableEq, Repr

/-- Why the machine stops.  The block itself never does (R110). -/
inductive Fault where
  /-- raised by `step` when the byte presented at an inner boundary is no word there; no host can present one (R74).
  Safe: the machine stops.  [assumption log 6] -/
  | noSuchWord (why : DecodeError)
  deriving DecidableEq, Repr

/-- Why an instruction has no meaning. -/
inductive Refusal where
  /-- raised by an arm of `exec` whose instruction has no meaning yet.  Safe. -/
  | notModelled (mnemonic : String)
  /-- raised by FRAME_RW_SET: read mode is unsupported and such a frame is never emitted (R23, R63; U3 and U8 of
  93_implementation_defined.md).  Safe. -/
  | readModeUnsupported
  deriving DecidableEq, Repr

/-- The state after a hardware reset (R33, R180): `(Uninitialized, false, Command, Write)`, the sequencer idle, no event
and no status yet.  The transport's scripts are empty, nothing is presented, and the two OPEN parameters are the free
ones (no element of the self-test text is `0x00`, R7).  [assumption log 2, 3] -/
def State.reset : State where
  phase := .uninitialized
  backlightOn := false
  registerSelect := .command
  readWrite := .write
  seq := none
  bus := { trace := [], begins := [], beginCalls := 0, writes := [], writeCalls := 0 }
  statuses := []
  primResult := none
  inputs := []
  cfg := Config.standard (Config.openSelftestText.filter (· ≠ 0)) Config.openErrPolicy
  granularity := .transaction

end Sys2Proof.Machine
end

