-- ==== Sys2Proof/Machine/Flags.lean ====
section
/-! DEFINITION. The control bits.  The block has no arithmetic flags (10_state.md R29); its single-bit state is what the
low half of a frame carries (30_encoding.md R61, R62).  Here are the frame assembly, the numeric encodings of the state
fields (R20) and of the statuses (R161), and the join of two statuses (42_init.md R120). -/

namespace Sys2Proof.Machine

/-- The backlight bit of a frame (R61). -/
def maskBL : Byte := 0x08
/-- The enable bit of a frame (R61). -/
def maskEN : Byte := 0x04
/-- The read/write bit of a frame (R61). -/
def maskRW : Byte := 0x02
/-- The register-select bit of a frame (R61). -/
def maskRS : Byte := 0x01

/-- `base(n)` (R62): the low nibble of the operand in bits 7:4, or-ed with the three control bits. -/
def baseFrame (bl : Bool) (rw : ReadWrite) (rs : RegisterSelect) (n : Byte) : Byte :=
  ((n &&& 0x0F) <<< 4)
    ||| (if bl then maskBL else 0)
    ||| (if rw = .read then maskRW else 0)
    ||| (if rs = .character then maskRS else 0)

/-- The frame with the enable bit high (R62, R101). -/
def enableHigh (f : Byte) : Byte := f ||| maskEN

/-- `base(n)` at the control bits of a state (R100: sampled when WRITE_NIBBLE starts). -/
def State.baseFrame (s : State) (n : Byte) : Byte :=
  Machine.baseFrame s.backlightOn s.readWrite s.registerSelect n

/-- `s1 ⊔ s2` (R120): `ERR_IO` if either operand is `ERR_IO`, `OK` otherwise. -/
def Status.join (a b : Status) : Status := if a = .errIo ∨ b = .errIo then .errIo else .ok

/-- The status of a transport write: 0 is success, anything else failure (R43). -/
def statusOfWrite (st : Int) : Status := if st = 0 then .ok else .errIo

/-- `rsp_status[2:0]` (R161). -/
def Status.code : Status → BitVec 3
  | .ok => 0
  | .errInit => 1
  | .errIo => 2
  | .errState => 3
  | .errRange => 4
  | .errIllegal => 5

/-- The encoding of `phase` (R20). -/
def Phase.code : Phase → BitVec 3
  | .uninitialized => 0
  | .busReady => 1
  | .fourBitMode => 2
  | .configured => 3
  | .ready => 4
  | .failed => 5

/-- The encoding of `registerSelect`, which is the frame bit it drives (R20). -/
def RegisterSelect.bit : RegisterSelect → Bool
  | .command => false
  | .character => true

/-- The encoding of `readWrite`, which is the frame bit it drives (R20). -/
def ReadWrite.bit : ReadWrite → Bool
  | .write => false
  | .read => true

end Sys2Proof.Machine
end

