-- ==== Sys2Proof/Machine/Operands.lean ====
section
/-! DEFINITION. The operand forms: the two nibbles of a byte (20_memory.md R48), the character table (40_encoder.md R90,
R91), the effective text of a message (30_encoding.md R68) and the address GOTO computes (43_operations.md R147). -/

namespace Sys2Proof.Machine

/-- `code[7:4]`, sent first (R48). -/
def highNibble (code : Byte) : Byte := code >>> 4

/-- `code[3:0]`, sent second (R48). -/
def lowNibble (code : Byte) : Byte := code &&& 0x0F

/-- ENCODE (R90, R91): a code inside the supported range is its own glyph code, any other gives the fallback. -/
def glyphCode (cfg : Config) (c : Byte) : Byte :=
  if cfg.encLo ≤ c ∧ c ≤ cfg.encHi then c else cfg.fallback

/-- The effective text (R68): the longest prefix without a `0x00`. -/
def effectiveText (text : List Byte) : List Byte := text.takeWhile (· ≠ 0)

/-- Whether GOTO's operand is inside the geometry (R66, R147). -/
def posInRange (cfg : Config) (pos : Byte) : Bool := pos.toNat < cfg.cols * cfg.rows

/-- `ROW_BASE[pos div COLS] + pos mod COLS` (R147). -/
def ddramAddress (cfg : Config) (pos : Byte) : Addr7 :=
  (cfg.rowBase[pos.toNat / cfg.cols]?).getD 0 + BitVec.ofNat 7 (pos.toNat % cfg.cols)

/-- `CMD_SETDDRAM | zext_8(addr)` (R73). -/
def setAddressByte (cfg : Config) (addr : Addr7) : Byte := cfg.cmdSetddram ||| addr.setWidth 8

end Sys2Proof.Machine
end

