-- ==== Sys2Proof/Machine/Ops.lean ====
section
/-! DEFINITION. The named operations every meaning is made of: the four transport calls and the wait (20_memory.md R41 to
R44, 00_scope.md R11), the writes of the state's fields, the returning of a status, which is what takes the place of an
exception (60_exceptions.md R160), the framing primitives as their pseudocode has them (41_framing.md R101, R103, R106),
and the body of a message (43_operations.md R143). -/

namespace Sys2Proof.Machine

/-! ## The transport -/

/-- The answer the `k`-th next `T.begin()` will get (R12, R41). -/
def Bus.beginAnswer (b : Bus) (k : Nat) : Bool := (b.begins[k]?).getD (Config.freeBegin (b.beginCalls + k))

/-- The status the `k`-th next `T.write` will get (R12, R43). -/
def Bus.writeAnswer (b : Bus) (k : Nat) : Int := (b.writes[k]?).getD (Config.freeWrite (b.writeCalls + k))

/-- Add events to the trace (R13). -/
def Bus.log (evs : List Event) (b : Bus) : Bus := { b with trace := b.trace ++ evs }

/-- `T.begin()` (R41). -/
def Bus.callBegin (b : Bus) : Bool × Bus :=
  (b.beginAnswer 0,
    { b with begins := b.begins.tail, beginCalls := b.beginCalls + 1, trace := b.trace ++ [.began (b.beginAnswer 0)] })

/-- `T.setAddress(a)` (R42). -/
def Bus.callSetAddress (a : Addr7) (b : Bus) : Bus := b.log [.setAddr a]

/-- `T.write(f)`: one byte, one event, one answer (R43). -/
def Bus.callWrite (f : Byte) (b : Bus) : Int × Bus :=
  (b.writeAnswer 0,
    { b with writes := b.writes.tail, writeCalls := b.writeCalls + 1, trace := b.trace ++ [.tx f (b.writeAnswer 0)] })

/-- `T.end()` (R44). -/
def Bus.callEnd (b : Bus) : Bus := b.log [.ended]

/-- `Wait(d)` (R11). -/
def Bus.wait (d : Micros) (b : Bus) : Bus := b.log [.wait d]

/-- One frame and the wait that follows it, failed or not (R101, R102). -/
def Bus.sendFrame (settle : Micros) (f : Byte) (b : Bus) : Status × Bus :=
  (statusOfWrite (b.callWrite f).1, (b.callWrite f).2.wait settle)

/-- Go on with the bus if the status is `OK`, else stop there (R102). -/
def Bus.andThen (r : Status × Bus) (k : Bus → Status × Bus) : Status × Bus :=
  if r.1 = .ok then k r.2 else r

/-- The enable pulse (R101): the frame low, high, low; the first that fails is the last sent (R102). -/
def Bus.pulse (settle : Micros) (f : Byte) (b : Bus) : Status × Bus :=
  Bus.andThen (b.sendFrame settle f) fun b =>
    Bus.andThen (b.sendFrame settle (enableHigh f)) fun b =>
      b.sendFrame settle f

/-! ## The state's fields, the status, the result of a primitive -/

/-- `phase <- p` (R9). -/
def State.setPhase (p : Phase) (s : State) : State := { s with phase := p }

/-- `backlightOn <- v` (R9). -/
def State.setBacklight (v : Bool) (s : State) : State := { s with backlightOn := v }

/-- `registerSelect <- v` (R9). -/
def State.setRegisterSelect (v : RegisterSelect) (s : State) : State := { s with registerSelect := v }

/-- The state with another transport boundary. -/
def State.setBus (b : Bus) (s : State) : State := { s with bus := b }

/-- The state with another sequencer. -/
def State.setSeq (r : Option Run) (s : State) : State := { s with seq := r }

/-- The state with other inputs to come. -/
def State.setInputs (is : List Input) (s : State) : State := { s with inputs := is }

/-- Return a status to the host: exactly one per accepted command (R140, R160).  Nothing is saved, no mode changes and
nothing else is written. -/
def State.respond (st : Status) (s : State) : State := { s with statuses := s.statuses ++ [st] }

/-- Hand a primitive's result back to its caller (R101, R90). -/
def State.handBack (r : PrimResult) (s : State) : State := { s with primResult := some r }

/-- Run an operation in the phase that admits it, and in any other refuse it with `ERR_STATE`, having emitted no event
and changed nothing (R140, R141, R166). -/
def State.operate (need : Phase) (body : State → Status × State) (s : State) : State :=
  if s.phase = need then (body s).2.respond (body s).1 else s.respond .errState

/-- The hardware reset (R180, R182): every field of the block at its reset value, whatever was in progress abandoned
without a status.  The parameters, the oracle and what the host presents are outside the block. -/
def State.hardReset (s : State) : State :=
  { State.reset with
    bus := { s.bus with trace := [] }
    inputs := s.inputs
    cfg := s.cfg
    granularity := s.granularity }

/-! ## The framing primitives -/

/-- WRITE_NIBBLE (R100 to R102): the base frame is sampled once, at the start. -/
def State.writeNibble (n : Byte) (s : State) : Status × State :=
  let r := s.bus.pulse s.cfg.tSettle (s.baseFrame n)
  (r.1, s.setBus r.2)

/-- WRITE_BYTE (R103, R104): the high nibble, and if it succeeded the low one. -/
def State.writeByte (code : Byte) (s : State) : Status × State :=
  let r := s.writeNibble (highNibble code)
  if r.1 = .ok then r.2.writeNibble (lowNibble code) else r

/-- CMD_BYTE (R106): WRITE_BYTE, then `Wait(T_CMD)` whether or not it failed. -/
def State.cmdByte (b : Byte) (s : State) : Status × State :=
  let r := s.writeByte b
  (r.1, r.2.setBus (r.2.bus.wait s.cfg.tCmd))

/-- The character loop of MSG_BODY (R143): a `0x00` ends it; a failed byte ends it under `Abort` and is remembered under
`Continue`. -/
def State.sendText : List Byte → State → Status × State
  | [], s => (.ok, s)
  | c :: rest, s =>
    if c = 0 then (.ok, s)
    else
      let r := s.writeByte (glyphCode s.cfg c)
      if r.1 ≠ .ok ∧ s.cfg.errPolicy = .abort then (.errIo, r.2)
      else
        let q := State.sendText rest r.2
        (r.1.join q.1, q.2)

/-- MSG_BODY (R143): `registerSelect <- Character` before anything else, then the characters in order. -/
def State.msgBody (text : List Byte) (s : State) : Status × State :=
  (s.setRegisterSelect .character).sendText text

/-! ## Running a primitive as an instruction -/

/-- Run a framing primitive and hand its status back. -/
def State.runPrimitive (body : State → Status × State) (s : State) : State :=
  (body s).2.handBack (.status (body s).1)

/-- Send one assembled frame and its wait (R101). -/
def State.frame (f : Byte) (s : State) : Status × State :=
  let r := s.bus.sendFrame s.cfg.tSettle f
  (r.1, s.setBus r.2)

end Sys2Proof.Machine
end

