-- ==== Sys2Proof/Machine/CommandBytes.lean ====
section
/-! DEFINITION. The meanings of the command-byte rows (30_encoding.md R71, R73): each is sent through CMD_BYTE
(41_framing.md R106), under the register select its caller has set; CMD_BYTE does not set it. -/

namespace Sys2Proof.Machine

/-- LCD_FOURBIT (R122). -/
def execLcdFourbit (s : State) : Host.Outcome State Fault Refusal :=
  .next (s.runPrimitive (State.cmdByte s.cfg.cmdFourbit))

/-- LCD_FUNCSET (R122). -/
def execLcdFuncset (s : State) : Host.Outcome State Fault Refusal :=
  .next (s.runPrimitive (State.cmdByte s.cfg.cmdFuncset))

/-- LCD_DISPOFF (R123). -/
def execLcdDispoff (s : State) : Host.Outcome State Fault Refusal :=
  .next (s.runPrimitive (State.cmdByte s.cfg.cmdDispoff))

/-- LCD_CLEAR (R123, R145). -/
def execLcdClear (s : State) : Host.Outcome State Fault Refusal :=
  .next (s.runPrimitive (State.cmdByte s.cfg.cmdClear))

/-- LCD_ENTRY (R123). -/
def execLcdEntry (s : State) : Host.Outcome State Fault Refusal :=
  .next (s.runPrimitive (State.cmdByte s.cfg.cmdEntry))

/-- LCD_DISPON (R123). -/
def execLcdDispon (s : State) : Host.Outcome State Fault Refusal :=
  .next (s.runPrimitive (State.cmdByte s.cfg.cmdDispon))

/-- LCD_HOME (R146). -/
def execLcdHome (s : State) : Host.Outcome State Fault Refusal :=
  .next (s.runPrimitive (State.cmdByte s.cfg.cmdHome))

/-- LCD_SETDDRAM (R73, R147). -/
def execLcdSetddram (addr : Addr7) (s : State) : Host.Outcome State Fault Refusal :=
  .next (s.runPrimitive (State.cmdByte (setAddressByte s.cfg addr)))

end Sys2Proof.Machine
end

