-- ==== Sys2Proof/Machine/Encoder.lean ====
section
/-! DEFINITION. The meanings of the encoder's rows: ENCODE (40_encoder.md R90 to R92) and the glyph byte that its output
becomes on the bus (30_encoding.md R75). -/

namespace Sys2Proof.Machine

/-- ENCODE (R90, R91): pure; only its result is handed back. -/
def execEncode (c : Byte) (s : State) : Host.Outcome State Fault Refusal :=
  .next (s.handBack (.glyph (glyphCode s.cfg c)))

/-- GLYPH (R75): an encoder output sent through WRITE_BYTE, under the register select its caller has set. -/
def execGlyph (g : Byte) (s : State) : Host.Outcome State Fault Refusal :=
  .next (s.runPrimitive (State.writeByte g))

end Sys2Proof.Machine
end

