-- ==== Sys2Proof/Machine/Framing.lean ====
section
/-! DEFINITION. The meanings of the framing rows: the three frame formats (30_encoding.md R61, R63), and WRITE_NIBBLE,
WRITE_BYTE and CMD_BYTE (41_framing.md R100 to R106). -/

namespace Sys2Proof.Machine

/-- FRAME_EN_LOW (R101, frames 0 and 2 of a nibble): one `T.write` of the frame as it stands, then `Wait(T_SETTLE)`. -/
def execFrameEnLow (nibble : Nibble) (bl rs : Bool) (s : State) : Host.Outcome State Fault Refusal :=
  .next (s.runPrimitive (State.frame (frameBits nibble bl false false rs)))

/-- FRAME_EN_HIGH (R101, frame 1 of a nibble). -/
def execFrameEnHigh (nibble : Nibble) (bl rs : Bool) (s : State) : Host.Outcome State Fault Refusal :=
  .next (s.runPrimitive (State.frame (frameBits nibble bl true false rs)))

/-- FRAME_RW_SET (R63): values with the read/write bit set are never emitted; read mode is unsupported (R23). -/
def execFrameRwSet (_nibble : Nibble) (_bl _en _rs : Bool) (_s : State) : Host.Outcome State Fault Refusal :=
  .refused .readModeUnsupported

/-- WRITE_NIBBLE (R100 to R102). -/
def execWriteNibble (n : Byte) (s : State) : Host.Outcome State Fault Refusal :=
  .next (s.runPrimitive (State.writeNibble n))

/-- WRITE_BYTE (R103, R104). -/
def execWriteByte (code : Byte) (s : State) : Host.Outcome State Fault Refusal :=
  .next (s.runPrimitive (State.writeByte code))

/-- CMD_BYTE (R106). -/
def execCmdByte (b : Byte) (s : State) : Host.Outcome State Fault Refusal :=
  .next (s.runPrimitive (State.cmdByte b))

end Sys2Proof.Machine
end

