-- ==== Sys2Proof/Machine/Init.lean ====
section
/-! DEFINITION. The meanings of INIT and TEARDOWN (42_init.md R120 to R128). -/

namespace Sys2Proof.Machine

/-- Do `k` after `r` whatever `r` returned, and join the two statuses (R120, R126). -/
def State.joinThen (r : Status × State) (k : State → Status × State) : Status × State :=
  (r.1.join (k r.2).1, (k r.2).2)

/-- `BusReady → FourBitMode` (R122). -/
def State.enterFourBit (s : State) : Status × State :=
  let s := (s.setBus (s.bus.callSetAddress s.cfg.i2cAddr)).setRegisterSelect .command
  let r := State.joinThen (s.cmdByte s.cfg.cmdFourbit) fun s => s.cmdByte s.cfg.cmdFuncset
  (r.1, r.2.setPhase .fourBitMode)

/-- `FourBitMode → Configured` (R123): the four commands in strict order. -/
def State.configure (s : State) : Status × State :=
  let r := State.joinThen (s.cmdByte s.cfg.cmdDispoff) fun s =>
    State.joinThen (s.cmdByte s.cfg.cmdClear) fun s =>
      State.joinThen (s.cmdByte s.cfg.cmdEntry) fun s => s.cmdByte s.cfg.cmdDispon
  (r.1, r.2.setPhase .configured)

/-- `Configured → Ready` (R124). -/
def State.selftest (s : State) : Status × State :=
  let r := (s.setBacklight true).msgBody s.cfg.selftestText
  (r.1, r.2.setPhase .ready)

/-- The body of INIT (R120): `T.begin()` decides between `Failed` (R121) and the whole sequence (R126). -/
def State.initBody (s : State) : Status × State :=
  let r := s.bus.callBegin
  let s := s.setBus r.2
  if r.1 then
    State.joinThen (s.setPhase .busReady).enterFourBit fun s =>
      State.joinThen s.configure fun s => s.selftest
  else (.errInit, s.setPhase .failed)

/-- The body of TEARDOWN (R127). -/
def State.teardownBody (s : State) : Status × State :=
  (.ok, (((s.setBus s.bus.callEnd).setBacklight false).setRegisterSelect .command).setPhase .uninitialized)

/-- INIT (R120), admitted in `Uninitialized` only (R128). -/
def execInit (_arg : Byte) (s : State) : Host.Outcome State Fault Refusal :=
  .next (s.operate .uninitialized State.initBody)

/-- TEARDOWN (R127), admitted in `Ready` only. -/
def execTeardown (_arg : Byte) (s : State) : Host.Outcome State Fault Refusal :=
  .next (s.operate .ready State.teardownBody)

end Sys2Proof.Machine
end

