-- ==== Sys2Proof/Machine/Operations.lean ====
section
/-! DEFINITION. The meanings of the public operations (43_operations.md R143 to R147) and of the two reserved host words
(30_encoding.md R69). -/

namespace Sys2Proof.Machine

/-- MSG (R143). -/
def execMsg (_arg : Byte) (text : List Byte) (s : State) : Host.Outcome State Fault Refusal :=
  .next (s.operate .ready (State.msgBody text))

/-- CLEAR (R145). -/
def execClear (_arg : Byte) (s : State) : Host.Outcome State Fault Refusal :=
  .next (s.operate .ready fun s => (s.setRegisterSelect .command).cmdByte s.cfg.cmdClear)

/-- HOME (R146). -/
def execHome (_arg : Byte) (s : State) : Host.Outcome State Fault Refusal :=
  .next (s.operate .ready fun s => (s.setRegisterSelect .command).cmdByte s.cfg.cmdHome)

/-- GOTO (R147): the range is checked after the phase (R142) and before anything is written. -/
def execGoto (pos : Byte) (s : State) : Host.Outcome State Fault Refusal :=
  .next (s.operate .ready fun s =>
    if posInRange s.cfg pos then
      (s.setRegisterSelect .command).cmdByte (setAddressByte s.cfg (ddramAddress s.cfg pos))
    else (.errRange, s))

/-- RESERVED_6 (R69, R165): refused in every phase. -/
def execReserved6 (_arg : Byte) (s : State) : Host.Outcome State Fault Refusal :=
  .next (s.respond .errIllegal)

/-- RESERVED_7 (R69, R165): refused in every phase. -/
def execReserved7 (_arg : Byte) (s : State) : Host.Outcome State Fault Refusal :=
  .next (s.respond .errIllegal)

end Sys2Proof.Machine
end

