-- ==== Sys2Proof/Machine/Dispatch.lean ====
section
/-! DEFINITION. One arm per row of the opcode table, each one call of its meaning. -/

namespace Sys2Proof.Machine

def exec (i : Instr) (s : State) : Host.Outcome State Fault Refusal :=
  match i with
  -- host operations (format H)
  | .init arg => Sys2Proof.Machine.execInit arg s
  | .msg arg text => Sys2Proof.Machine.execMsg arg text s
  | .clear arg => Sys2Proof.Machine.execClear arg s
  | .home arg => Sys2Proof.Machine.execHome arg s
  | .goto pos => Sys2Proof.Machine.execGoto pos s
  | .teardown arg => Sys2Proof.Machine.execTeardown arg s
  | .reserved6 arg => Sys2Proof.Machine.execReserved6 arg s
  | .reserved7 arg => Sys2Proof.Machine.execReserved7 arg s
  -- frames (format F)
  | .frameEnLow nibble bl rs => Sys2Proof.Machine.execFrameEnLow nibble bl rs s
  | .frameEnHigh nibble bl rs => Sys2Proof.Machine.execFrameEnHigh nibble bl rs s
  | .frameRwSet nibble bl en rs => Sys2Proof.Machine.execFrameRwSet nibble bl en rs s
  -- command bytes (formats L0 and L)
  | .lcdFourbit => Sys2Proof.Machine.execLcdFourbit s
  | .lcdFuncset => Sys2Proof.Machine.execLcdFuncset s
  | .lcdDispoff => Sys2Proof.Machine.execLcdDispoff s
  | .lcdClear => Sys2Proof.Machine.execLcdClear s
  | .lcdEntry => Sys2Proof.Machine.execLcdEntry s
  | .lcdDispon => Sys2Proof.Machine.execLcdDispon s
  | .lcdHome => Sys2Proof.Machine.execLcdHome s
  | .lcdSetddram addr => Sys2Proof.Machine.execLcdSetddram addr s
  -- glyph bytes (format G)
  | .glyph g => Sys2Proof.Machine.execGlyph g s
  -- internal primitives
  | .encode c => Sys2Proof.Machine.execEncode c s
  | .writeNibble n => Sys2Proof.Machine.execWriteNibble n s
  | .writeByte code => Sys2Proof.Machine.execWriteByte code s
  | .cmdByte b => Sys2Proof.Machine.execCmdByte b s

end Sys2Proof.Machine
end

