-- ==== Sys2Proof/Machine/Sequencer.lean ====
section
/-! DEFINITION. The sequencer one trace event at a time (10_state.md R28): the item lists of the operations (42_init.md R130,
43_operations.md R150), admission (43_operations.md R141, R142), the framing machine (41_framing.md R109) and the position.
What emits no event (R108: an item that only sets a field; R109, row IDLE: the loading of a byte; the return of the status)
takes no step of its own: it happens with the event before it, or with the acceptance.  [assumption log 7] -/

namespace Sys2Proof.Machine

/-! ## Item lists and admission -/

/-- The item list of an operation (R108, R130, R150); an instruction that is no host operation has none. -/
def itemList (cfg : Config) : Instr → List Item
  | .init _ =>
    [.bus, .addr, .setRegisterSelect .command, .cbyte cfg.cmdFourbit, .cbyte cfg.cmdFuncset, .setPhase .fourBitMode,
      .cbyte cfg.cmdDispoff, .cbyte cfg.cmdClear, .cbyte cfg.cmdEntry, .cbyte cfg.cmdDispon, .setPhase .configured,
      .setBacklight true, .setRegisterSelect .character]
      ++ (effectiveText cfg.selftestText).map .gbyte ++ [.setPhase .ready]
  | .msg _ text => .setRegisterSelect .character :: (effectiveText text).map .gbyte
  | .clear _ => [.setRegisterSelect .command, .cbyte cfg.cmdClear]
  | .home _ => [.setRegisterSelect .command, .cbyte cfg.cmdHome]
  | .goto pos => [.setRegisterSelect .command, .cbyte (setAddressByte cfg (ddramAddress cfg pos))]
  | .teardown _ => [.release, .setBacklight false, .setRegisterSelect .command, .setPhase .uninitialized]
  | .reserved6 _ | .reserved7 _ => []
  | .frameEnLow _ _ _ | .frameEnHigh _ _ _ | .frameRwSet _ _ _ _ => []
  | .lcdFourbit | .lcdFuncset | .lcdDispoff | .lcdClear | .lcdEntry | .lcdDispon | .lcdHome | .lcdSetddram _ => []
  | .glyph _ | .encode _ | .writeNibble _ | .writeByte _ | .cmdByte _ => []

/-- The admission checks in their order (R141, R142): the opcode, the phase, the operand.  `none` admits. -/
def State.admission (i : Instr) (s : State) : Option Status :=
  match i with
  | .reserved6 _ | .reserved7 _ => some .errIllegal
  | .init _ => if s.phase = .uninitialized then none else some .errState
  | .msg _ _ | .clear _ | .home _ | .teardown _ => if s.phase = .ready then none else some .errState
  | .goto pos =>
    if s.phase = .ready then (if posInRange s.cfg pos then none else some .errRange) else some .errState
  | .frameEnLow _ _ _ | .frameEnHigh _ _ _ | .frameRwSet _ _ _ _ => some .errIllegal
  | .lcdFourbit | .lcdFuncset | .lcdDispoff | .lcdClear | .lcdEntry | .lcdDispon | .lcdHome | .lcdSetddram _ =>
    some .errIllegal
  | .glyph _ | .encode _ | .writeNibble _ | .writeByte _ | .cmdByte _ => some .errIllegal

/-- The sequencer at the first item of an operation (R28, R108). -/
def Run.begin (i : Instr) (items : List Item) : Run where
  op := i
  item := 0
  todo := items
  err := .ok
  framing := .idle
  cur := 0
  f := 0
  fail := false
  iscmd := false
  timer := none

/-! ## The framing machine (R109) -/

/-- Whether an item is a message's glyph byte. -/
def Item.isGlyph : Item → Bool
  | .gbyte _ => true
  | .setPhase _ | .setBacklight _ | .setRegisterSelect _ | .bus | .addr | .cbyte _ | .release => false

/-- Go on to the next item. -/
def Run.pop (r : Run) : Run := { r with item := r.item + 1, todo := r.todo.tail }

/-- Row IDLE (R109): a request to send a byte, whose first base frame is `f`. -/
def Run.load (b f : Byte) (iscmd : Bool) (r : Run) : Run :=
  { r with framing := .tx .high 0, cur := b, f := f, fail := false, iscmd := iscmd }

/-- The items left after the current byte: a failed glyph byte under `Abort` takes the rest of its message with it (R143,
R150); any other byte, failed or not, is followed by the next item (R126). -/
def Run.afterByte (policy : ErrPolicy) (r : Run) : List Item :=
  if r.fail ∧ r.iscmd = false ∧ policy = .abort then r.todo.tail.dropWhile Item.isGlyph else r.todo.tail

/-- Return from a byte to IDLE (R109), remembering a failure in the operation's error (R126, R143). -/
def Run.byteDone (policy : ErrPolicy) (r : Run) : Run :=
  { r with
    framing := .idle
    timer := none
    err := r.err.join (if r.fail then .errIo else .ok)
    item := r.item + (r.todo.length - (r.afterByte policy).length)
    todo := r.afterByte policy }

/-- The frame of `TX(nib, k)` (R109). -/
def Run.frame (r : Run) (k : Fin 3) : Byte := if k = 1 then enableHigh r.f else r.f

/-- Where the end of a byte's last settling delay leads (R109): to the command's own delay, or back to IDLE. -/
def Run.settled (cfg : Config) (r : Run) : Run :=
  if r.iscmd then { r with framing := .cw, timer := some cfg.tCmd } else r.byteDone cfg.errPolicy

/-- What follows `WT(nib, k)` (R109).  `low` is the base frame of the byte's low nibble. -/
def Run.afterWait (cfg : Config) (low : Byte) (nib : Half) (k : Fin 3) (r : Run) : Run :=
  if r.fail then r.settled cfg
  else if k < 2 then { r with framing := .tx nib (k + 1), timer := none }
  else
    match nib with
    | .high => { r with framing := .tx .low 0, f := low, timer := none }
    | .low => r.settled cfg

/-! ## What emits no event -/

/-- Go through the items that emit no event, up to the next that does or past the last: a `SET` writes its field (R108), a
byte to send is loaded (R109, row IDLE), and the end of the list returns the status (R140). -/
def State.pass : List Item → Run → State → State
  | [], r, s => (s.setSeq none).respond r.err
  | .setPhase p :: rest, r, s => State.pass rest r.pop (s.setPhase p)
  | .setBacklight v :: rest, r, s => State.pass rest r.pop (s.setBacklight v)
  | .setRegisterSelect v :: rest, r, s => State.pass rest r.pop (s.setRegisterSelect v)
  | .cbyte b :: _, r, s => s.setSeq (some (r.load b (s.baseFrame (highNibble b)) true))
  | .gbyte c :: _, r, s =>
    let g := glyphCode s.cfg c
    s.setSeq (some (r.load g (s.baseFrame (highNibble g)) false))
  | .bus :: _, r, s | .addr :: _, r, s | .release :: _, r, s => s.setSeq (some r)

/-- Go on to the next event: inside a byte it is at hand, else it may lie behind items that emit none. -/
def State.goOn (r : Run) (s : State) : State :=
  if r.framing = .idle then s.pass r.todo r else s.setSeq (some r)

/-- Accept a host command event by event (R140): refuse it at once, or stand before the first event of its item list. -/
def State.accept (i : Instr) (s : State) : State :=
  match s.admission i with
  | some st => s.respond st
  | none => s.goOn (Run.begin i (itemList s.cfg i))

/-! ## One event -/

/-- The event of an item that calls the transport (R108), and the run after it; a `false` answer to `BEGIN` replaces the
list (R121, R130). -/
def State.callItem (r : Run) (s : State) : Item → State × Run
  | .bus =>
    let a := s.bus.callBegin
    if a.1 then ((s.setBus a.2).setPhase .busReady, r.pop)
    else (s.setBus a.2, { r.pop with todo := [.setPhase .failed], err := .errInit })
  | .addr => (s.setBus (s.bus.callSetAddress s.cfg.i2cAddr), r.pop)
  | .release => (s.setBus s.bus.callEnd, r.pop)
  | .setPhase _ | .setBacklight _ | .setRegisterSelect _ | .cbyte _ | .gbyte _ => (s, r)

/-- The event at the position, and the run after it (R28, R109). -/
def State.emit (r : Run) (s : State) : State × Run :=
  match r.framing with
  | .idle =>
    match r.todo with
    | [] => (s, r)
    | item :: _ => s.callItem r item
  | .tx nib k =>
    let a := s.bus.callWrite (r.frame k)
    (s.setBus a.2, { r with framing := .wt nib k, fail := a.1 ≠ 0, timer := some s.cfg.tSettle })
  | .wt nib k =>
    (s.setBus (s.bus.wait s.cfg.tSettle), r.afterWait s.cfg (s.baseFrame (lowNibble r.cur)) nib k)
  | .cw => (s.setBus (s.bus.wait s.cfg.tCmd), r.byteDone s.cfg.errPolicy)

/-- One event of a run, a small step (R28, R109): its event, and on to the next. -/
def State.tickRun (r : Run) (s : State) : State := (s.emit r).1.goOn (s.emit r).2

/-- One small step: nothing when idle (R28, R109, R110). -/
def State.tick (s : State) : State :=
  match s.seq with
  | none => s
  | some r => s.tickRun r

/-! ## What is a function of the position -/

/-- `busy` (R30): an operation is in progress. -/
def State.busy (s : State) : Bool := s.seq.isSome

/-- `cmd_ready` (R70): exactly when not busy. -/
def State.cmdReady (s : State) : Bool := !s.busy

/-- `sub` of the position (R28). -/
inductive Sub where
  | tx | wait
  deriving DecidableEq, Repr

/-- The place inside an item (R28, R108): at the call of an item that sends no byte; at a frame or its settling delay, R28's
`nib`, `fr` and `sub`; or, past the last frame of a CMD_BYTE, at `Wait(T_CMD)` (R109 `CW`). -/
inductive Place where
  | call
  | frame (nib : Half) (fr : Fin 3) (sub : Sub)
  | commandWait
  deriving DecidableEq, Repr

/-- The order of the places inside an item (R28, R108): the high nibble before the low one, the frames in order, a frame
before its delay, and the command's own delay last. -/
def Place.rank : Place → Nat
  | .call => 0
  | .frame nib fr sub => (if nib = .low then 7 else 1) + 2 * fr.val + if sub = .wait then 1 else 0
  | .commandWait => 13

/-- The sequencer position (R28). -/
structure Position where
  op : Instr
  item : Nat
  place : Place
  deriving DecidableEq, Repr

/-- One position of an operation is before another (R28: it never goes backwards). -/
def Position.before (p q : Position) : Prop :=
  p.op = q.op ∧ (p.item < q.item ∨ p.item = q.item ∧ p.place.rank < q.place.rank)

/-- The place a framing state stands at. -/
def Framing.place : Framing → Place
  | .idle => .call
  | .tx nib k => .frame nib k .tx
  | .wt nib k => .frame nib k .wait
  | .cw => .commandWait

/-- The position of a run. -/
def Run.position (r : Run) : Position := { op := r.op, item := r.item, place := r.framing.place }

/-- The sequencer position: `none` is `idle` (R28). -/
def State.position (s : State) : Option Position := s.seq.map Run.position

/-- The delay timer (R174): running only while the sequencer waits. -/
def State.timer (s : State) : Option Micros :=
  match s.seq with
  | none => none
  | some r => r.timer

end Sys2Proof.Machine
end

