-- ==== Sys2Proof/Machine/Fetch.lean ====
section
/-! DEFINITION. What the block takes up next (43_operations.md R140, 30_encoding.md R70): the reset input at any time
(70_reset_and_hazards.md R180, R182), the operation in progress while it is busy (10_state.md R30), else what is presented. -/

namespace Sys2Proof.Machine

/-- The instruction an internal primitive's call is. -/
def Primitive.instr : Primitive → Instr
  | .encode c => .encode c
  | .writeNibble n => .writeNibble n
  | .writeByte code => .writeByte code
  | .cmdByte b => .cmdByte b

/-- What a step has to do. -/
inductive Fetched where
  /-- the reset input is asserted -/
  | reset (rest : List Input)
  /-- an operation is in progress -/
  | busy
  /-- nothing is presented -/
  | nothing
  /-- nothing is presented during this step -/
  | pause (rest : List Input)
  /-- a host command -/
  | command (i : Instr) (rest : List Input)
  /-- a row of the opcode table that is no host operation -/
  | inner (i : Instr) (rest : List Input)
  /-- a byte that is no word at its boundary -/
  | noWord (why : DecodeError)
  deriving DecidableEq, Repr

/-- Take up one input when idle. -/
def fetchInput (rest : List Input) : Input → Fetched
  | .reset => .reset rest
  | .pause => .pause rest
  | .command w text => .command (decodeCommand w text) rest
  | .inner b v =>
    match decode b [v] with
    | .ok i => .inner i rest
    | .error e => .noWord e
  | .primitive p => .inner p.instr rest

/-- Take up one input when busy: the reset strikes an operation in progress (R182), and no command is accepted, which so
stays presented (R30, R70). -/
def fetchWhenBusy (rest : List Input) : Input → Fetched
  | .reset => .reset rest
  | .pause => .pause rest
  | .command _ _ | .inner _ _ | .primitive _ => .busy

/-- What the next step has to do. -/
def State.fetch (s : State) : Fetched :=
  match s.inputs with
  | [] => if s.busy then .busy else .nothing
  | input :: rest => if s.busy then fetchWhenBusy rest input else fetchInput rest input

/-- The input that presents a row's bits as spec/opcode_table.json numbers them, as `decodeTableWord` reads them. -/
def tableInput (nbits w : Nat) : Input :=
  if nbits = 8 then .inner (bareBoundary (BitVec.ofNat 8 w)) (BitVec.ofNat 8 w)
  else .command (BitVec.ofNat 11 w) []

end Sys2Proof.Machine
end

