-- ==== Sys2Proof/Machine/Step.lean ====
section
/-! DEFINITION. One step of the machine. -/

namespace Sys2Proof.Machine

/-- One step: the reset, a small step of the operation in progress, or one instruction, which is taken off the inputs
before it runs.  A host command runs whole (R140) or, at event granularity, is only accepted (R109).  [assumption log 7] -/
def step (s : State) : Host.Outcome State Fault Refusal :=
  match s.fetch with
  | .reset rest => .next (s.hardReset.setInputs rest)
  | .busy => .next s.tick
  | .nothing => .next s
  | .pause rest => .next (s.tick.setInputs rest)
  | .command i rest =>
    match s.granularity with
    | .transaction => exec i (s.setInputs rest)
    | .event => .next ((s.setInputs rest).accept i)
  | .inner i rest => exec i (s.setInputs rest)
  | .noWord e => .fault (.noSuchWord e)

/-- The state with a row's word presented first, the sequencer idle and host commands run whole, so that the next step
runs that row's instruction. -/
def State.withFetchWord (s : State) (nbits w : Nat) : State :=
  { s with inputs := tableInput nbits w :: s.inputs, seq := none, granularity := .transaction }

end Sys2Proof.Machine
end

