-- ==== Sys2Proof/Safety.lean ====
section
/-! DEFINITION. What a safe run is, in the terms the statements use: the traces the rules give for a byte, a command and a
text (41_framing.md R101 to R106, 43_operations.md R151), and the invariants of the block (10_state.md R34, 41_framing.md
R109, 70_reset_and_hazards.md R185). -/

namespace Sys2Proof.Machine

/-! ## Traces in closed form -/

/-- The next `n` writes will all be accepted (R12, R43). -/
def Bus.accepts (n : Nat) (b : Bus) : Prop := ∀ k < n, b.writeAnswer k = 0

/-- The bus after `n` writes that left these events. -/
def Bus.after (n : Nat) (evs : List Event) (b : Bus) : Bus :=
  { b with trace := b.trace ++ evs, writes := b.writes.drop n, writeCalls := b.writeCalls + n }

/-- The three frames of a nibble whose base frame is `f` (R101). -/
def nibbleFrames (f : Byte) : List Byte := [f, f ||| 0x04, f]

/-- The six frames of a byte, the high nibble's first (R103); `base` gives the base frame of a nibble. -/
def byteFrames (base : Byte → Byte) (code : Byte) : List Byte :=
  nibbleFrames (base (code >>> 4)) ++ nibbleFrames (base (code &&& 0x0F))

/-- The events of frames that were all accepted, each followed by its settling delay (R101). -/
def acceptedFrames (settle : Micros) (frames : List Byte) : List Event :=
  frames.flatMap fun f => [.tx f 0, .wait settle]

/-- The events of frames of which the one after the first `k` failed with status `st`: nothing follows it but its settling
delay (R102, R104). -/
def cutFrames (settle : Micros) (frames : List Byte) (k : Nat) (st : Int) : List Event :=
  acceptedFrames settle (frames.take k) ++ (frames[k]?.toList.flatMap fun f => [.tx f st, .wait settle])

/-- The base frame at given control bits, with the read/write bit 0 (R62): what is or-ed into the nibble is `0x08` for the
backlight and `0x01` for a character. -/
def frameOf (bl : Bool) (rs : RegisterSelect) (n : Byte) : Byte :=
  (n <<< 4) ||| (if bl then 0x08 else 0x00) ||| (if rs = .character then 0x01 else 0x00)

/-- The events of a byte sent with no failure (R103). -/
def byteEvents (cfg : Config) (bl : Bool) (rs : RegisterSelect) (code : Byte) : List Event :=
  acceptedFrames cfg.tSettle (byteFrames (frameOf bl rs) code)

/-- The events of a command byte sent with no failure (R106). -/
def commandEvents (cfg : Config) (bl : Bool) (code : Byte) : List Event :=
  byteEvents cfg bl .command code ++ [.wait cfg.tCmd]

/-- The events of a text without `0x00` sent with no failure (R143, R151). -/
def textEvents (cfg : Config) (bl : Bool) (text : List Byte) : List Event :=
  text.flatMap fun c => byteEvents cfg bl .character (glyphCode cfg c)

/-- The statuses of the writes among some events. -/
def txStatuses (evs : List Event) : List Int :=
  evs.filterMap fun
    | .tx _ st => some st
    | .began _ | .setAddr _ | .wait _ | .ended => none

/-- The frames among some events: the projection that is the physical bus (R13). -/
def txFrames (evs : List Event) : List Byte :=
  evs.filterMap fun
    | .tx f _ => some f
    | .began _ | .setAddr _ | .wait _ | .ended => none

/-- The sum of the delays among some events: a lower bound on how long they last (R11, R195). -/
def totalWait : List Event → Micros
  | [] => 0
  | .wait d :: rest => d + totalWait rest
  | .tx _ _ :: rest => totalWait rest
  | .began _ :: rest => totalWait rest
  | .setAddr _ :: rest => totalWait rest
  | .ended :: rest => totalWait rest

/-! ## Invariants -/

/-- No frame on the bus has its read/write bit set (R23, R34 clause e, R63). -/
def noReadFrame (evs : List Event) : Prop := ∀ f ∈ txFrames evs, f.getLsbD 1 = false

/-- Every frame is followed at once by a delay of at least `d` (R101, R185). -/
def paced (d : Micros) : List Event → Bool
  | [] => true
  | .tx _ _ :: .wait w :: rest => decide (d ≤ w) && paced d rest
  | .tx _ _ :: _ => false
  | .began _ :: rest => paced d rest
  | .setAddr _ :: rest => paced d rest
  | .wait _ :: rest => paced d rest
  | .ended :: rest => paced d rest

/-- The three fields that operations write. -/
abbrev Bits := Phase × Bool × RegisterSelect

/-- The fields a state has. -/
def State.bits (s : State) : Bits := (s.phase, s.backlightOn, s.registerSelect)

/-- The block between operations (R34 clauses b, c, d): in `Uninitialized` and `Failed` the control bits are at their reset
values, in `Ready` the backlight is on, and there is no other phase. -/
def Bits.quiet : Bits → Prop
  | (.uninitialized, bl, rs) => bl = false ∧ rs = .command
  | (.failed, bl, rs) => bl = false ∧ rs = .command
  | (.ready, bl, _) => bl = true
  | (.busReady, _, _) => False
  | (.fourBitMode, _, _) => False
  | (.configured, _, _) => False

/-- What an item does to the fields, if `T.begin()` answers `true` (R108, R130). -/
def Item.apply : Bits → Item → Bits
  | (_, bl, rs), .setPhase p => (p, bl, rs)
  | (p, _, rs), .setBacklight v => (p, v, rs)
  | (p, bl, _), .setRegisterSelect v => (p, bl, v)
  | (_, bl, rs), .bus => (.busReady, bl, rs)
  | b, .addr => b
  | b, .cbyte _ => b
  | b, .gbyte _ => b
  | b, .release => b

/-- Whether an item sends a byte. -/
def Item.sendsByte : Item → Bool
  | .cbyte _ | .gbyte _ => true
  | .setPhase _ | .setBacklight _ | .setRegisterSelect _ | .bus | .addr | .release => false

/-- Whether an item's own event is a call of the transport (R108). -/
def Item.calls : Item → Bool
  | .bus | .addr | .release => true
  | .setPhase _ | .setBacklight _ | .setRegisterSelect _ | .cbyte _ | .gbyte _ => false

/-- The delay the timer must be running in a framing state (R109, R174). -/
def Framing.delay (cfg : Config) : Framing → Option Micros
  | .idle => none
  | .tx _ _ => none
  | .wt _ _ => some cfg.tSettle
  | .cw => some cfg.tCmd

/-- What holds of an operation in progress: the items still to do lead to a state between operations, `BEGIN` can only be
the first of them, the sequencer stands at an event (a call of the transport if no byte is being sent, R28), a byte is being
sent only for an item that sends one, the base frame in use has its read/write bit 0,
and the timer runs exactly while the sequencer waits. -/
structure Run.Sound (s : State) (r : Run) : Prop where
  leadsToQuiet : (r.todo.foldl Item.apply s.bits).quiet
  beginOnlyFirst : Item.bus ∉ r.todo.tail
  beginAtReset : r.todo.head? = some .bus → s.backlightOn = false ∧ s.registerSelect = .command
  atEvent : r.framing = .idle → ∃ item, r.todo.head? = some item ∧ item.calls = true
  byteItem : r.framing ≠ .idle → ∃ item, r.todo.head? = some item ∧ item.sendsByte = true
  frameWrites : ∀ nib k, r.framing = .tx nib k ∨ r.framing = .wt nib k → r.f.getLsbD 1 = false
  timerMatches : r.timer = r.framing.delay s.cfg

/-- Whether a frame is still waiting for its settling delay. -/
def State.awaitingSettle (s : State) : Bool :=
  match s.seq with
  | none => false
  | some r =>
    match r.framing with
    | .wt _ _ => true
    | .idle | .tx _ _ | .cw => false

/-- The invariant of the machine, at every granularity (R34, R109, R174, R185). -/
structure State.Inv (s : State) : Prop where
  writeOnly : s.readWrite = .write
  framesWrite : noReadFrame s.bus.trace
  framesPaced : paced s.cfg.tSettle (s.bus.trace ++ if s.awaitingSettle then [.wait s.cfg.tSettle] else []) = true
  quietWhenIdle : s.seq = none → s.bits.quiet
  soundWhenBusy : ∀ r, s.seq = some r → r.Sound s

/-- The inputs a host can present (R6, R14, R74). -/
def Input.fromHost : Input → Bool
  | .command _ _ | .reset | .pause => true
  | .inner _ _ | .primitive _ => false

/-- `n` small steps of the sequencer (R109). -/
def State.ticks : Nat → State → State
  | 0, s => s
  | n + 1, s => s.tick.ticks n

/-! ## Legal parameters -/

/-- The block is built with the default values of the parameter table; the two OPEN parameters are whatever they are (R7). -/
def State.usesDefaults (s : State) : Prop := s.cfg = Config.standard s.cfg.selftestText s.cfg.errPolicy

/-- The laws the parameter table obeys (R7, R10, R185): what the defaults satisfy and a proof about any parameters may
assume. -/
structure LegalParameters (cfg : Config) : Prop where
  settleLongEnough : 1500 ≤ cfg.tSettle
  selftestHasNoNull : (0 : Byte) ∉ cfg.selftestText
  oneBaseARow : cfg.rowBase.length = cfg.rows
  rowsFitAddresses : ∀ base ∈ cfg.rowBase, base.toNat + cfg.cols ≤ 128
  glyphsNotNull : 0 < cfg.encLo ∧ cfg.encLo ≤ cfg.fallback ∧ cfg.fallback ≤ cfg.encHi

end Sys2Proof.Machine
end

