-- ==== Sys2Proof/Certificates/Slice0/Obligations.lean ====
section
/-! DEFINITION. The statements for the provers.  Each docstring says which rule of spec/ it formalises.  Where a statement
names the bus after an instruction it does so as `Bus.after n evs`: `n` of the oracle's write answers consumed and the
events `evs` added to the trace. -/

open Sys2Proof Sys2Proof.Machine

/-! ## Reset, parameters, encodings -/

/-- 10_state.md R33: the state after reset, the sequencer idle, not busy, the timer stopped, no event. -/
def Obligations.ResetStateValues : Prop :=
  State.reset.phase = .uninitialized ∧ State.reset.backlightOn = false ∧ State.reset.registerSelect = .command ∧
    State.reset.readWrite = .write ∧ State.reset.position = none ∧ State.reset.busy = false ∧
    State.reset.timer = none ∧ State.reset.bus.trace = []

/-- 00_scope.md R7: the values of the parameter table, and that reset's table has them and a text without `0x00`. -/
def Obligations.DefaultParameterValues : Prop :=
  (∀ text policy,
    let c := Config.standard text policy
    c.i2cAddr = 0x27 ∧ c.tSettle = 1500 ∧ c.tCmd = 1500 ∧ c.cols = 16 ∧ c.rows = 2 ∧ c.encLo = 0x20 ∧
      c.encHi = 0x7D ∧ c.fallback = 0x3F ∧ c.cmdFourbit = 0x02 ∧ c.cmdFuncset = 0x28 ∧ c.cmdDispoff = 0x08 ∧
      c.cmdClear = 0x01 ∧ c.cmdEntry = 0x06 ∧ c.cmdDispon = 0x0C ∧ c.cmdHome = 0x02 ∧ c.cmdSetddram = 0x80 ∧
      c.rowBase = [0x00, 0x40] ∧ c.selftestText = text ∧ c.errPolicy = policy) ∧
  State.reset.usesDefaults ∧ LegalParameters State.reset.cfg

/-- 30_encoding.md R64 to R66 and R69: the fields of the host word and the opcode map. -/
def Obligations.HostWordOpcodeMap : Prop :=
  (∀ op arg, opField (hostWord op arg) = op ∧ argField (hostWord op arg) = arg) ∧
  ∀ arg text,
    decodeCommand (hostWord 0b000 arg) text = .init arg ∧ decodeCommand (hostWord 0b001 arg) text = .msg arg text ∧
    decodeCommand (hostWord 0b010 arg) text = .clear arg ∧ decodeCommand (hostWord 0b011 arg) text = .home arg ∧
    decodeCommand (hostWord 0b100 arg) text = .goto arg ∧ decodeCommand (hostWord 0b101 arg) text = .teardown arg ∧
    decodeCommand (hostWord 0b110 arg) text = .reserved6 arg ∧ decodeCommand (hostWord 0b111 arg) text = .reserved7 arg

/-- A few words written out from the tables of 30_encoding.md R65, R71, R61 and R77, each with the instruction it is. -/
def Obligations.SampleWordsDecode : Prop :=
  decode .host [0x10, 0x04] = .ok (.goto 16) ∧ decode .host [0x00, 0x01, 0x48, 0x49] = .ok (.msg 0 [0x48, 0x49]) ∧
  decode .host [0xAB, 0x06] = .ok (.reserved6 0xAB) ∧ decode .frame [0x4D] = .ok (.frameEnHigh 0x4 true true) ∧
  decode .frame [0x20] = .ok (.frameEnLow 0x2 false false) ∧ decode .command [0x28] = .ok .lcdFuncset ∧
  decode .command [0xC5] = .ok (.lcdSetddram 0x45) ∧ decode .entryCommand [0x02] = .ok .lcdFourbit ∧
  decode .glyph [0x7E] = .error .glyphByteNeverSent

/-- Decode and encode agree: every well-formed instruction that has words is read back from them, whole. -/
def Obligations.DecodeOfEncode : Prop :=
  ∀ i e, i.wf = true → encode i = some e → decode e.boundary e.bytes = .ok i

/-- Each word has one meaning at its boundary: what decodes is well formed and encodes to the very bytes. -/
def Obligations.EncodeOfDecode : Prop :=
  ∀ b bytes i, decode b bytes = .ok i → i.wf = true ∧ encode i = some ⟨b, bytes⟩

/-- A word at the host port is the word of its bytes (30_encoding.md R64, R68): the byte decoder and the port agree on
every command that has no text but MSG's. -/
def Obligations.HostPortMatchesDecoder : Prop :=
  ∀ w text, opField w = 1 ∨ text = [] → decode .host (hostWordBytes w ++ text) = .ok (decodeCommand w text)

/-- 30_encoding.md R67: for INIT, MSG, CLEAR, HOME and TEARDOWN the `arg` field has no effect. -/
def Obligations.ArgFieldIgnored : Prop :=
  ∀ (s : State) (a b : Byte) (text : List Byte),
    exec (.init a) s = exec (.init b) s ∧ exec (.msg a text) s = exec (.msg b text) s ∧
    exec (.clear a) s = exec (.clear b) s ∧ exec (.home a) s = exec (.home b) s ∧
    exec (.teardown a) s = exec (.teardown b) s

/-- 30_encoding.md R61, R62: every bit of the base frame, and that the middle frame differs from it in the enable bit
alone.  Bits of the operand above bit 3 do not appear. -/
def Obligations.BaseFrameLayout : Prop :=
  ∀ (s : State) (n : Byte),
    (∀ j < 4, (s.baseFrame n).getLsbD (4 + j) = n.getLsbD j) ∧
    (s.baseFrame n).getLsbD 3 = s.backlightOn ∧ (s.baseFrame n).getLsbD 2 = false ∧
    (s.baseFrame n).getLsbD 1 = s.readWrite.bit ∧ (s.baseFrame n).getLsbD 0 = s.registerSelect.bit ∧
    ∀ j < 8, (enableHigh (s.baseFrame n)).getLsbD j = (decide (j = 2) || (s.baseFrame n).getLsbD j)

/-- 60_exceptions.md R161 and 10_state.md R20: the numeric codes of the statuses and of the phases; codes 6 and 7 of either
are nothing's. -/
def Obligations.StatusAndPhaseCodes : Prop :=
  Status.ok.code = 0 ∧ Status.errInit.code = 1 ∧ Status.errIo.code = 2 ∧ Status.errState.code = 3 ∧
  Status.errRange.code = 4 ∧ Status.errIllegal.code = 5 ∧
  Phase.uninitialized.code = 0 ∧ Phase.busReady.code = 1 ∧ Phase.fourBitMode.code = 2 ∧ Phase.configured.code = 3 ∧
  Phase.ready.code = 4 ∧ Phase.failed.code = 5 ∧
  (∀ st : Status, st.code ≠ 6 ∧ st.code ≠ 7) ∧ ∀ p : Phase, p.code ≠ 6 ∧ p.code ≠ 7

/-! ## The encoder -/

/-- 40_encoder.md R90: a character of the supported range is its own glyph code; nothing else changes (R92). -/
def Obligations.EncodeInRangeIsIdentity : Prop :=
  ∀ (s : State) (c : Byte), s.usesDefaults → 0x20 ≤ c → c ≤ 0x7D →
    exec (.encode c) s = .next (s.handBack (.glyph c))

/-- 40_encoder.md R91: any other character gives the fallback glyph, and never an error. -/
def Obligations.EncodeOutOfRangeIsFallback : Prop :=
  ∀ (s : State) (c : Byte), s.usesDefaults → (c < 0x20 ∨ 0x7D < c) →
    exec (.encode c) s = .next (s.handBack (.glyph 0x3F))

/-- 40_encoder.md R95 (a) to (f). -/
def Obligations.EncoderImageAndIdempotence : Prop :=
  ∀ text policy,
    let enc := glyphCode (Config.standard text policy)
    (∀ g : Byte, (∃ c, enc c = g) ↔ 0x20 ≤ g ∧ g ≤ 0x7D) ∧ (∀ c, enc (enc c) = enc c) ∧
    (∀ c d, enc c = enc d → c = d ∨ enc c = 0x3F) ∧ (∀ c : Byte, enc c = 0x3F ↔ c = 0x3F ∨ c < 0x20 ∨ 0x7D < c) ∧
    (∀ c, (enc c).getLsbD 7 = false) ∧ (∀ c, enc c ≠ 0x00) ∧ enc 0x00 = 0x3F

/-! ## The framing layer -/

/-- 41_framing.md R101: with no failure one WRITE_NIBBLE is exactly six events, low, high, low, each frame followed by
`Wait(T_SETTLE)`; it returns `OK` and changes nothing else (R100). -/
def Obligations.WriteNibbleAccepted : Prop :=
  ∀ (s : State) (n : Byte), s.bus.accepts 3 →
    exec (.writeNibble n) s =
      .next ((s.setBus (s.bus.after 3
        [.tx (s.baseFrame n) 0, .wait s.cfg.tSettle, .tx (s.baseFrame n ||| 0x04) 0, .wait s.cfg.tSettle,
          .tx (s.baseFrame n) 0, .wait s.cfg.tSettle])).handBack (.status .ok))

/-- 41_framing.md R102: when frame `k` fails its wait is still performed, the frames after it are not sent, and the result
is `ERR_IO`. -/
def Obligations.WriteNibbleCutShort : Prop :=
  ∀ (s : State) (n : Byte) (k : Nat), k < 3 → s.bus.accepts k → s.bus.writeAnswer k ≠ 0 →
    exec (.writeNibble n) s =
      .next ((s.setBus (s.bus.after (k + 1)
        (cutFrames s.cfg.tSettle (nibbleFrames (s.baseFrame n)) k (s.bus.writeAnswer k)))).handBack (.status .errIo))

/-- 41_framing.md R103: with no failure WRITE_BYTE sends the high nibble's three frames, then the low nibble's. -/
def Obligations.WriteByteAccepted : Prop :=
  ∀ (s : State) (code : Byte), s.bus.accepts 6 →
    exec (.writeByte code) s =
      .next ((s.setBus (s.bus.after 6 (acceptedFrames s.cfg.tSettle (byteFrames s.baseFrame code)))).handBack
        (.status .ok))

/-- 41_framing.md R104: WRITE_BYTE stops with its first failed frame, in whichever nibble it is, and returns `ERR_IO`. -/
def Obligations.WriteByteCutShort : Prop :=
  ∀ (s : State) (code : Byte) (k : Nat), k < 6 → s.bus.accepts k → s.bus.writeAnswer k ≠ 0 →
    exec (.writeByte code) s =
      .next ((s.setBus (s.bus.after (k + 1)
        (cutFrames s.cfg.tSettle (byteFrames s.baseFrame code) k (s.bus.writeAnswer k)))).handBack (.status .errIo))

/-- 41_framing.md R106: CMD_BYTE is WRITE_BYTE followed by `Wait(T_CMD)`, which is performed whether or not the byte
failed. -/
def Obligations.CmdByteWaitsAlways : Prop :=
  ∀ (s : State) (b : Byte),
    (s.bus.accepts 6 → exec (.cmdByte b) s =
      .next ((s.setBus (s.bus.after 6
        (acceptedFrames s.cfg.tSettle (byteFrames s.baseFrame b) ++ [.wait s.cfg.tCmd]))).handBack (.status .ok))) ∧
    ∀ k < 6, s.bus.accepts k → s.bus.writeAnswer k ≠ 0 → exec (.cmdByte b) s =
      .next ((s.setBus (s.bus.after (k + 1)
        (cutFrames s.cfg.tSettle (byteFrames s.baseFrame b) k (s.bus.writeAnswer k) ++ [.wait s.cfg.tCmd]))).handBack
        (.status .errIo))

/-- The rows of format F (30_encoding.md R61; 41_framing.md R101, the body of its loop): one write of the frame, its wait,
and the status of the write. -/
def Obligations.FrameRowsSendOneFrame : Prop :=
  ∀ (s : State) (n : Nibble) (bl rs : Bool),
    let st : Status := if s.bus.writeAnswer 0 = 0 then .ok else .errIo
    let sent := fun f : Byte =>
      (s.setBus (s.bus.after 1 [.tx f (s.bus.writeAnswer 0), .wait s.cfg.tSettle])).handBack (.status st)
    let low : Byte := (n ++ 0x0#4) ||| (if bl then 0x08 else 0x00) ||| (if rs then 0x01 else 0x00)
    exec (.frameEnLow n bl rs) s = .next (sent low) ∧ exec (.frameEnHigh n bl rs) s = .next (sent (low ||| 0x04))

/-- 30_encoding.md R63: a frame with the read/write bit set is never emitted; its row stops in every state. -/
def Obligations.ReadFrameRowRefused : Prop :=
  ∀ (s : State) (n : Nibble) (bl en rs : Bool), exec (.frameRwSet n bl en rs) s = .refused .readModeUnsupported

/-- The rows of formats L0 and L (30_encoding.md R71): with the default codes each sends its byte through CMD_BYTE
(41_framing.md R106), and answers a next state whether or not the transport accepts it. -/
def Obligations.CommandByteRowsSendTheirByte : Prop :=
  ∀ (s : State) (i : Instr) (code : Byte), s.usesDefaults →
    (i = .lcdFourbit ∧ code = 0x02 ∨ i = .lcdFuncset ∧ code = 0x28 ∨ i = .lcdDispoff ∧ code = 0x08 ∨
      i = .lcdClear ∧ code = 0x01 ∨ i = .lcdEntry ∧ code = 0x06 ∨ i = .lcdDispon ∧ code = 0x0C ∨
      i = .lcdHome ∧ code = 0x02 ∨ ∃ addr : Addr7, i = .lcdSetddram addr ∧ code = 0x80 + addr.setWidth 8) →
    (s.bus.accepts 6 → exec i s =
      .next ((s.setBus (s.bus.after 6
        (acceptedFrames s.cfg.tSettle (byteFrames s.baseFrame code) ++ [.wait s.cfg.tCmd]))).handBack (.status .ok))) ∧
    ∀ k < 6, s.bus.accepts k → s.bus.writeAnswer k ≠ 0 → exec i s =
      .next ((s.setBus (s.bus.after (k + 1)
        (cutFrames s.cfg.tSettle (byteFrames s.baseFrame code) k (s.bus.writeAnswer k) ++ [.wait s.cfg.tCmd]))).handBack
        (.status .errIo))

/-- The row of format G (30_encoding.md R75): a glyph byte goes through WRITE_BYTE, with no delay of its own after it. -/
def Obligations.GlyphRowSendsItsByte : Prop :=
  ∀ (s : State) (g : Byte),
    (s.bus.accepts 6 → exec (.glyph g) s =
      .next ((s.setBus (s.bus.after 6 (acceptedFrames s.cfg.tSettle (byteFrames s.baseFrame g)))).handBack
        (.status .ok))) ∧
    ∀ k < 6, s.bus.accepts k → s.bus.writeAnswer k ≠ 0 → exec (.glyph g) s =
      .next ((s.setBus (s.bus.after (k + 1)
        (cutFrames s.cfg.tSettle (byteFrames s.baseFrame g) k (s.bus.writeAnswer k)))).handBack (.status .errIo))

/-- 41_framing.md R100, 40_encoder.md R92: what the rows that are no host operation leave unchanged: everything but the
transport boundary and the result handed back, no call of `T.begin()`, the trace only extended; ENCODE leaves the
transport too. -/
def Obligations.PrimitivesFrame : Prop :=
  ∀ (s : State) (i : Instr), i.isHost = false → (∀ n bl en rs, i ≠ .frameRwSet n bl en rs) →
    ∃ t evs, exec i s = .next t ∧ t.bits = s.bits ∧ t.readWrite = s.readWrite ∧ t.seq = s.seq ∧
      t.statuses = s.statuses ∧ t.inputs = s.inputs ∧ t.cfg = s.cfg ∧ t.granularity = s.granularity ∧
      t.bus.begins = s.bus.begins ∧ t.bus.beginCalls = s.bus.beginCalls ∧ t.bus.trace = s.bus.trace ++ evs ∧
      (∀ c, i = .encode c → t.bus = s.bus)

/-! ## INIT and TEARDOWN -/

/-- 42_init.md R125 (with R122 to R124): the whole of an INIT whose every answer is good: the exact trace, six command
bytes under the backlight bit the state had and the self-test text under the backlight, the final state and `OK`. -/
def Obligations.InitSucceeds : Prop :=
  ∀ (s : State) (arg : Byte),
    let text := effectiveText s.cfg.selftestText
    let n := 36 + 6 * text.length
    s.phase = .uninitialized → s.readWrite = .write → s.bus.beginAnswer 0 = true → s.bus.accepts n →
    exec (.init arg) s =
      .next { s with
        phase := .ready
        backlightOn := true
        registerSelect := .character
        statuses := s.statuses ++ [.ok]
        bus :=
          { trace := s.bus.trace ++ ([.began true, .setAddr s.cfg.i2cAddr]
              ++ commandEvents s.cfg s.backlightOn s.cfg.cmdFourbit ++ commandEvents s.cfg s.backlightOn s.cfg.cmdFuncset
              ++ commandEvents s.cfg s.backlightOn s.cfg.cmdDispoff ++ commandEvents s.cfg s.backlightOn s.cfg.cmdClear
              ++ commandEvents s.cfg s.backlightOn s.cfg.cmdEntry ++ commandEvents s.cfg s.backlightOn s.cfg.cmdDispon
              ++ textEvents s.cfg true text)
            begins := s.bus.begins.tail
            beginCalls := s.bus.beginCalls + 1
            writes := s.bus.writes.drop n
            writeCalls := s.bus.writeCalls + n } }

/-- 42_init.md R121, 60_exceptions.md R162: when the transport cannot start, INIT's one event is `Begin->false`, the phase
becomes `Failed`, the status is `ERR_INIT` and the control bits are not touched. -/
def Obligations.InitTransportCannotStart : Prop :=
  ∀ (s : State) (arg : Byte), s.phase = .uninitialized → s.bus.beginAnswer 0 = false →
    exec (.init arg) s =
      .next { s with
        phase := .failed
        statuses := s.statuses ++ [.errInit]
        bus :=
          { s.bus with
            trace := s.bus.trace ++ [.began false]
            begins := s.bus.begins.tail
            beginCalls := s.bus.beginCalls + 1 } }

/-- 42_init.md R126: once the transport has started INIT ends in `Ready`, whatever the writes answer; its status is
`ERR_IO` if any write of it failed and `OK` otherwise. -/
def Obligations.InitAlwaysReachesReady : Prop :=
  ∀ (s : State) (arg : Byte), s.phase = .uninitialized → s.bus.beginAnswer 0 = true →
    ∃ t evs st, exec (.init arg) s = .next t ∧ t.phase = .ready ∧ t.backlightOn = true ∧ t.registerSelect = .character ∧
      t.bus.trace = s.bus.trace ++ [.began true, .setAddr s.cfg.i2cAddr] ++ evs ∧ t.statuses = s.statuses ++ [st] ∧
      (st = .ok ∧ (∀ x ∈ txStatuses evs, x = 0) ∨ st = .errIo ∧ ∃ x ∈ txStatuses evs, x ≠ 0)

/-- 42_init.md R127: TEARDOWN's one event is `End`, its status `OK`, and the phase and the control bits return to their
reset values; outside `Ready` it is refused. -/
def Obligations.TeardownReleases : Prop :=
  ∀ (s : State) (arg : Byte),
    (s.phase = .ready → exec (.teardown arg) s =
      .next { s with
        phase := .uninitialized
        backlightOn := false
        registerSelect := .command
        statuses := s.statuses ++ [.ok]
        bus := { s.bus with trace := s.bus.trace ++ [.ended] } }) ∧
    (s.phase ≠ .ready → exec (.teardown arg) s = .next (s.respond .errState))

/-- What INIT and TEARDOWN leave unchanged in every case: the read/write bit, the sequencer, the inputs, the parameters
and the result of the last primitive; the trace is only extended (10_state.md R23, R26; 00_scope.md R7). -/
def Obligations.InitTeardownFrame : Prop :=
  ∀ (s : State) (arg : Byte) (i : Instr), i = .init arg ∨ i = .teardown arg →
    ∃ t evs, exec i s = .next t ∧ t.readWrite = s.readWrite ∧ t.seq = s.seq ∧ t.inputs = s.inputs ∧ t.cfg = s.cfg ∧
      t.granularity = s.granularity ∧ t.primResult = s.primResult ∧ t.bus.trace = s.bus.trace ++ evs

/-! ## Admission -/

/-- 43_operations.md R141, R166: an operation in a phase that does not admit it is refused with `ERR_STATE`, whatever its
operand: no event, no state change, no oracle answer consumed. -/
def Obligations.RefusedOutsideItsPhase : Prop :=
  ∀ (s : State) (arg : Byte) (text : List Byte),
    (s.phase ≠ .uninitialized → exec (.init arg) s = .next (s.respond .errState)) ∧
    (s.phase ≠ .ready →
      exec (.msg arg text) s = .next (s.respond .errState) ∧ exec (.clear arg) s = .next (s.respond .errState) ∧
      exec (.home arg) s = .next (s.respond .errState) ∧ exec (.goto arg) s = .next (s.respond .errState) ∧
      exec (.teardown arg) s = .next (s.respond .errState))

/-- 60_exceptions.md R165: the two reserved words are refused in every phase with `ERR_ILLEGAL`. -/
def Obligations.ReservedWordsAreIllegal : Prop :=
  ∀ (s : State) (arg : Byte),
    exec (.reserved6 arg) s = .next (s.respond .errIllegal) ∧ exec (.reserved7 arg) s = .next (s.respond .errIllegal)

/-- 60_exceptions.md R167: in `Ready`, GOTO with an operand above 31 is refused with `ERR_RANGE`: no event, and
`registerSelect` keeps its value. -/
def Obligations.GotoOutOfRangeRefused : Prop :=
  ∀ (s : State) (pos : Byte), s.usesDefaults → s.phase = .ready → 31 < pos.toNat →
    exec (.goto pos) s = .next (s.respond .errRange)

/-- 43_operations.md R140: every host word, in every state, is answered with exactly one status; the status is the
admission's if it refuses, and then nothing else changes. -/
def Obligations.ExactlyOneStatus : Prop :=
  ∀ (s : State) (i : Instr), i.isHost = true →
    ∃ t st, exec i s = .next t ∧ t.statuses = s.statuses ++ [st] ∧
      ∀ refusal, s.admission i = some refusal → st = refusal ∧ t = s.respond refusal

/-! ## MSG, CLEAR, HOME, GOTO -/

/-- 43_operations.md R151, R143: a message whose every write is accepted sends the glyph bytes of its effective text in
order, with the register-select bit 1 throughout and no command delay, and returns `OK`. -/
def Obligations.MsgAccepted : Prop :=
  ∀ (s : State) (arg : Byte) (text : List Byte), s.phase = .ready → s.readWrite = .write →
    s.bus.accepts (6 * (effectiveText text).length) →
    exec (.msg arg text) s =
      .next (((s.setRegisterSelect .character).setBus (s.bus.after (6 * (effectiveText text).length)
        (textEvents s.cfg s.backlightOn (effectiveText text)))).respond .ok)

/-- 30_encoding.md R68: elements after the first `0x00` are never read, whatever the transport answers. -/
def Obligations.MsgStopsAtTerminator : Prop :=
  ∀ (s : State) (arg : Byte) (text more : List Byte), exec (.msg arg (text ++ 0x00 :: more)) s = exec (.msg arg text) s

/-- 43_operations.md R143, R144 under `Abort`: the message stops at the first failed byte; the characters after it are
not sent. -/
def Obligations.MsgAbortStopsAtFailedByte : Prop :=
  ∀ (s : State) (arg : Byte) (sent rest : List Byte) (c : Byte) (k : Nat),
    let n := 6 * sent.length + k
    s.phase = .ready → s.readWrite = .write → s.cfg.errPolicy = .abort → (0x00 : Byte) ∉ sent → c ≠ 0x00 → k < 6 →
    s.bus.accepts n → s.bus.writeAnswer n ≠ 0 →
    exec (.msg arg (sent ++ c :: rest)) s =
      .next (((s.setRegisterSelect .character).setBus (s.bus.after (n + 1)
        (textEvents s.cfg s.backlightOn sent ++ cutFrames s.cfg.tSettle
          (byteFrames (frameOf s.backlightOn .character) (glyphCode s.cfg c)) k (s.bus.writeAnswer n)))).respond .errIo)

/-- 43_operations.md R143, R144 under `Continue`: the failed byte is abandoned and the rest of the text goes on from there
exactly as a message of its own would; the status is `ERR_IO`. -/
def Obligations.MsgContinueGoesOn : Prop :=
  ∀ (s : State) (arg : Byte) (sent rest : List Byte) (c : Byte) (k : Nat),
    let n := 6 * sent.length + k
    s.phase = .ready → s.readWrite = .write → s.cfg.errPolicy = .continueOn → (0x00 : Byte) ∉ sent → c ≠ 0x00 → k < 6 →
    s.bus.accepts n → s.bus.writeAnswer n ≠ 0 →
    ∃ u, exec (.msg arg rest) (s.setBus (s.bus.after (n + 1)
        (textEvents s.cfg s.backlightOn sent ++ cutFrames s.cfg.tSettle
          (byteFrames (frameOf s.backlightOn .character) (glyphCode s.cfg c)) k (s.bus.writeAnswer n)))) = .next u ∧
      exec (.msg arg (sent ++ c :: rest)) s = .next { u with statuses := s.statuses ++ [.errIo] }

/-- 60_exceptions.md R164: an unsupported character is sent exactly as the fallback character would be; nothing tells the
two apart. -/
def Obligations.SubstitutionIsSilent : Prop :=
  ∀ (s : State) (arg : Byte) (text : List Byte), LegalParameters s.cfg →
    exec (.msg arg (text.map fun c => if c = 0x00 then 0x00 else glyphCode s.cfg c)) s = exec (.msg arg text) s

/-- 43_operations.md R145: CLEAR sets `registerSelect` to `Command` and really sends the clear command. -/
def Obligations.ClearAccepted : Prop :=
  ∀ (s : State) (arg : Byte), s.usesDefaults → s.phase = .ready → s.readWrite = .write → s.bus.accepts 6 →
    exec (.clear arg) s =
      .next (((s.setRegisterSelect .command).setBus
        (s.bus.after 6 (commandEvents s.cfg s.backlightOn 0x01))).respond .ok)

/-- 43_operations.md R146: HOME. -/
def Obligations.HomeAccepted : Prop :=
  ∀ (s : State) (arg : Byte), s.usesDefaults → s.phase = .ready → s.readWrite = .write → s.bus.accepts 6 →
    exec (.home arg) s =
      .next (((s.setRegisterSelect .command).setBus
        (s.bus.after 6 (commandEvents s.cfg s.backlightOn 0x02))).respond .ok)

/-- 43_operations.md R147, R148: GOTO sends `0x80` to `0x8F` for the first row and `0xC0` to `0xCF` for the second. -/
def Obligations.GotoAccepted : Prop :=
  ∀ (s : State) (pos : Byte), s.usesDefaults → s.phase = .ready → s.readWrite = .write → pos.toNat ≤ 31 →
    s.bus.accepts 6 →
    exec (.goto pos) s =
      .next (((s.setRegisterSelect .command).setBus (s.bus.after 6
        (commandEvents s.cfg s.backlightOn (if pos.toNat < 16 then 0x80 + pos else 0xC0 + (pos - 16))))).respond .ok)

/-- 60_exceptions.md R163 for CLEAR, HOME and GOTO: the one byte is cut short at its first failed frame, the command's own
delay is still performed, and the status is `ERR_IO`. -/
def Obligations.OneByteOperationsCutShort : Prop :=
  ∀ (s : State) (i : Instr) (code arg : Byte) (k : Nat), s.phase = .ready → s.readWrite = .write →
    (i = .clear arg ∧ code = s.cfg.cmdClear ∨ i = .home arg ∧ code = s.cfg.cmdHome ∨
      i = .goto arg ∧ posInRange s.cfg arg = true ∧ code = setAddressByte s.cfg (ddramAddress s.cfg arg)) →
    k < 6 → s.bus.accepts k → s.bus.writeAnswer k ≠ 0 →
    exec i s =
      .next (((s.setRegisterSelect .command).setBus (s.bus.after (k + 1)
        (cutFrames s.cfg.tSettle (byteFrames (frameOf s.backlightOn .command) code) k (s.bus.writeAnswer k)
          ++ [.wait s.cfg.tCmd]))).respond .errIo)

/-- What MSG, CLEAR, HOME and GOTO leave unchanged in every state, refused or not: the phase, the backlight, the
read/write bit, the sequencer, the inputs, the parameters, `T.begin()`'s oracle; the trace is only extended
(43_operations.md R144 to R147). -/
def Obligations.PublicOperationsFrame : Prop :=
  ∀ (s : State) (arg : Byte) (text : List Byte) (i : Instr),
    i = .msg arg text ∨ i = .clear arg ∨ i = .home arg ∨ i = .goto arg →
    ∃ t evs, exec i s = .next t ∧ t.phase = s.phase ∧ t.backlightOn = s.backlightOn ∧ t.readWrite = s.readWrite ∧
      t.seq = s.seq ∧ t.inputs = s.inputs ∧ t.cfg = s.cfg ∧ t.granularity = s.granularity ∧
      t.primResult = s.primResult ∧ t.bus.begins = s.bus.begins ∧ t.bus.beginCalls = s.bus.beginCalls ∧
      t.bus.trace = s.bus.trace ++ evs

/-- 10_state.md R35: `registerSelect` after an operation is a function of the operation alone, whatever the oracle answers
and whatever the policy is. -/
def Obligations.RegisterSelectAfterOperation : Prop :=
  ∀ (s : State) (i : Instr), i.isHost = true →
    ∃ t, exec i s = .next t ∧ t.registerSelect =
      match s.admission i, i with
      | some _, _ => s.registerSelect
      | none, .init _ => if s.bus.beginAnswer 0 then .character else s.registerSelect
      | none, .msg _ _ => .character
      | none, _ => .command

/-- 60_exceptions.md R161: an admitted MSG, CLEAR, HOME or GOTO returns `OK` exactly when every write it made was accepted,
and `ERR_IO` otherwise. -/
def Obligations.StatusReportsEveryWrite : Prop :=
  ∀ (s : State) (arg : Byte) (text : List Byte) (i : Instr),
    i = .msg arg text ∨ i = .clear arg ∨ i = .home arg ∨ i = .goto arg → s.admission i = none →
    ∃ t evs st, exec i s = .next t ∧ t.bus.trace = s.bus.trace ++ evs ∧ t.statuses = s.statuses ++ [st] ∧
      (st = .ok ∧ (∀ x ∈ txStatuses evs, x = 0) ∨ st = .errIo ∧ ∃ x ∈ txStatuses evs, x ≠ 0)

/-- 60_exceptions.md R170: an admitted MSG, CLEAR, HOME or GOTO does not depend on the `registerSelect` it finds, so a
failed operation leaves it nothing to inherit. -/
def Obligations.NextOperationInheritsNothing : Prop :=
  ∀ (s : State) (v : RegisterSelect) (arg : Byte) (text : List Byte) (i : Instr),
    i = .msg arg text ∨ i = .clear arg ∨ i = .home arg ∨ i = .goto arg → s.admission i = none →
    exec i (s.setRegisterSelect v) = exec i s ∧ ∃ t, exec i s = .next t

/-- 70_reset_and_hazards.md R195 with the default delays: the frames and the least duration (in microseconds) of an
accepted message, of an accepted CLEAR, HOME or GOTO, and of an INIT whose every answer is good. -/
def Obligations.LeastDurations : Prop :=
  ∀ (s : State) (arg : Byte) (text : List Byte) (i : Instr) (n w : Nat), s.usesDefaults →
    (s.phase = .ready ∧ i = .msg arg text ∧ n = 6 * (effectiveText text).length ∧ w = 9000 * (effectiveText text).length ∨
      s.phase = .ready ∧ (i = .clear arg ∨ i = .home arg ∨ i = .goto arg ∧ arg.toNat ≤ 31) ∧ n = 6 ∧ w = 10500 ∨
      s.phase = .uninitialized ∧ s.bus.beginAnswer 0 = true ∧ i = .init arg ∧
        n = 36 + 6 * (effectiveText s.cfg.selftestText).length ∧
        w = 63000 + 9000 * (effectiveText s.cfg.selftestText).length) →
    s.bus.accepts n →
    ∃ t evs, exec i s = .next t ∧ t.bus.trace = s.bus.trace ++ evs ∧ (txFrames evs).length = n ∧ totalWait evs = w

/-! ## Rules about the whole machine -/

/-- 43_operations.md R154: no row but INIT and TEARDOWN changes `phase` or `backlightOn`. -/
def Obligations.OnlyInitAndTeardownWritePhase : Prop :=
  ∀ (s t : State) (i : Instr), exec i s = .next t → t.phase ≠ s.phase ∨ t.backlightOn ≠ s.backlightOn →
    ∃ arg, i = .init arg ∨ i = .teardown arg

/-- 10_state.md R24: `Failed` is terminal: from an idle block in `Failed` a step leaves it only if the reset input is
asserted, and every host word is answered with no event. -/
def Obligations.FailedIsTerminal : Prop :=
  (∀ s t : State, s.phase = .failed → s.seq = none → step s = .next t →
    t.phase = .failed ∨ ∃ rest, s.inputs = .reset :: rest) ∧
  ∀ (s : State) (i : Instr), s.phase = .failed → i.isHost = true →
    ∃ st, exec i s = .next (s.respond st) ∧ (st = .errState ∨ st = .errIllegal)

/-- 10_state.md R34 clause f: outside `Ready` no host word but an INIT in `Uninitialized` touches the transport. -/
def Obligations.SilentUnlessAdmitted : Prop :=
  ∀ (s : State) (i : Instr), i.isHost = true → s.phase ≠ .ready →
    (s.phase = .uninitialized → ∀ arg, i ≠ .init arg) → ∃ t, exec i s = .next t ∧ t.bus = s.bus ∧ t.bits = s.bits

/-- 00_scope.md R7, 10_state.md R23: no step changes the parameters or moves `readWrite` off `Write`. -/
def Obligations.ParametersAndReadWriteFixed : Prop :=
  ∀ s t : State, step s = .next t →
    t.cfg = s.cfg ∧ t.granularity = s.granularity ∧ (s.readWrite = .write → t.readWrite = .write)

/-- 00_scope.md R12, 41_framing.md R110: with host inputs only, every state has a next state, whatever the oracle answers,
busy or idle, at either granularity. -/
def Obligations.HostInputsNeverStopTheBlock : Prop :=
  ∀ s : State, (∀ input ∈ s.inputs, input.fromHost = true) → ∃ t, step s = .next t

/-- The invariant holds after reset. -/
def Obligations.InvariantAtReset : Prop := State.reset.Inv

/-- 10_state.md R34, 30_encoding.md R63, 60_exceptions.md R174, 70_reset_and_hazards.md R185: every step keeps the
invariant, at either granularity and whatever is presented: between operations the phase is `Uninitialized`, `Ready` or
`Failed` with the control bits to match; no frame has its read/write bit set; every frame is followed at once by its
settling delay; the timer runs exactly while the sequencer waits; an operation in progress stands at an event (R28) and
leads back between operations. -/
def Obligations.StepKeepsInvariant : Prop := ∀ s t : State, s.Inv → step s = .next t → t.Inv

/-! ## Steps -/

/-- A step runs the decoded instruction (43_operations.md R140; 30_encoding.md R70): what each kind of input makes an idle
block do, and that a busy one goes on with its operation and takes up no command (10_state.md R30). -/
def Obligations.StepRunsTheDecodedInstruction : Prop :=
  ∀ (s : State) (rest : List Input),
    (s.seq = none →
      (∀ w text, s.inputs = .command w text :: rest →
        (s.granularity = .transaction → step s = exec (decodeCommand w text) (s.setInputs rest)) ∧
        (s.granularity = .event → step s = .next ((s.setInputs rest).accept (decodeCommand w text)))) ∧
      (∀ b v i, s.inputs = .inner b v :: rest → decode b [v] = .ok i → step s = exec i (s.setInputs rest)) ∧
      (∀ b v e, s.inputs = .inner b v :: rest → decode b [v] = .error e → step s = .fault (.noSuchWord e)) ∧
      (∀ p, s.inputs = .primitive p :: rest → step s = exec p.instr (s.setInputs rest)) ∧
      (s.inputs = [] → step s = .next s) ∧
      (s.inputs = .pause :: rest → step s = .next (s.setInputs rest))) ∧
    ((∃ r, s.seq = some r) →
      ((∀ more, s.inputs ≠ .reset :: more ∧ s.inputs ≠ .pause :: more) →
        step s = .next s.tick ∧ s.tick.inputs = s.inputs) ∧
      (s.inputs = .pause :: rest → step s = .next (s.tick.setInputs rest)))

/-- 70_reset_and_hazards.md R180, R182: the reset input takes every state, an operation in progress too, to the reset
state with an empty trace; nothing is sent and no status is returned; the oracle goes on where it was. -/
def Obligations.ResetFromEveryState : Prop :=
  ∀ (s : State) (rest : List Input), s.inputs = .reset :: rest →
    step s = .next { State.reset with
      bus := { s.bus with trace := [] }
      inputs := rest
      cfg := s.cfg
      granularity := s.granularity }

/-! ## The sequencer event by event -/

/-- 10_state.md R28: a small step adds at most one event to the trace, and consumes a write answer exactly when that event
is a frame.  With an operation in progress, wherever the invariant holds, it adds exactly one; and the position then either
has advanced in the same operation, with no status returned, or is idle, with the operation's one status returned: it never
goes backwards and never stays. -/
def Obligations.OneEventPerSmallStep : Prop :=
  (∀ s : State, ∃ evs : List Event, evs.length ≤ 1 ∧ s.tick.bus.trace = s.bus.trace ++ evs ∧
    s.tick.bus.writeCalls = s.bus.writeCalls + (txFrames evs).length) ∧
  ∀ (s : State) (p : Position), s.Inv → s.position = some p →
    (∃ ev, s.tick.bus.trace = s.bus.trace ++ [ev]) ∧
    ((∃ q, s.tick.position = some q ∧ p.before q ∧ s.tick.statuses = s.statuses) ∨
      s.tick.position = none ∧ ∃ st, s.tick.statuses = s.statuses ++ [st])

/-- 41_framing.md R109: the framing machine is equivalent to the pseudocode: from IDLE with an item that sends a byte at the
head of the list it comes back to IDLE within 13 (CMD_BYTE) or 12 (WRITE_BYTE) events (R110), with the bus as CMD_BYTE or
WRITE_BYTE leaves it and a failure remembered in the operation's error.  IDLE is where `goOn` starts: the loading of a byte
and the return from one are no events of their own. -/
def Obligations.FramingMachineRefinesPseudocode : Prop :=
  ∀ (s : State) (r : Run) (rest : List Item), r.framing = .idle →
    (∀ b, r.todo = .cbyte b :: rest → ∃ n r', n ≤ 13 ∧
      (s.goOn r).ticks n = (s.cmdByte b).2.goOn r' ∧ r'.framing = .idle ∧ r'.op = r.op ∧ r'.item = r.item + 1 ∧
      r'.todo = rest ∧ r'.err = r.err.join (s.cmdByte b).1 ∧
      ∀ m < n, ∃ q, ((s.goOn r).ticks m).seq = some q ∧ q.framing ≠ .idle) ∧
    (∀ c, r.todo = .gbyte c :: rest → ∃ n r', n ≤ 12 ∧
      (s.goOn r).ticks n = (s.writeByte (glyphCode s.cfg c)).2.goOn r' ∧ r'.framing = .idle ∧ r'.op = r.op ∧
      r'.todo = (if (s.writeByte (glyphCode s.cfg c)).1 = .errIo ∧ s.cfg.errPolicy = .abort
        then rest.dropWhile Item.isGlyph else rest) ∧
      r'.err = r.err.join (s.writeByte (glyphCode s.cfg c)).1 ∧
      ∀ m < n, ∃ q, ((s.goOn r).ticks m).seq = some q ∧ q.framing ≠ .idle)

/-- 41_framing.md R108, 42_init.md R130, 43_operations.md R150, 10_state.md R28: a host command taken event by event ends, is
busy until it does, takes exactly as many small steps as it has events, and ends in exactly the state the whole command
leads to. -/
def Obligations.EventRunRefinesTransaction : Prop :=
  ∀ (s : State) (i : Instr), s.seq = none → i.isHost = true →
    ∃ n t, exec i s = .next t ∧ (s.accept i).ticks n = t ∧ t.bus.trace.length = s.bus.trace.length + n ∧
      ∀ m < n, ((s.accept i).ticks m).busy = true

/-- 41_framing.md R110: while a byte is being sent, whatever the oracle answers, the byte is over within 13 events (12 for a
WRITE_BYTE): the sequencer has left its item for a later one or has none left. -/
def Obligations.FramingReturnsWithinThirteen : Prop :=
  ∀ (s : State) (r : Run), s.seq = some r → r.framing ≠ .idle →
    ∃ n, 0 < n ∧ n ≤ (if r.iscmd then 13 else 12) ∧
      ((s.ticks n).seq = none ∨ ∃ q, (s.ticks n).seq = some q ∧ q.op = r.op ∧ r.item < q.item) ∧
      ∀ m < n, ∃ q, (s.ticks m).seq = some q ∧ q.item = r.item ∧ q.framing ≠ .idle

/-- 10_state.md R24, 42_init.md R121 to R125: an INIT taken event by event walks the phases in their order: at each small
step the phase stays, or moves along `Uninitialized → BusReady → FourBitMode → Configured → Ready`, or from `Uninitialized`
to `Failed`.  `Configured` holds to the end of the self-test message (R125), so it lies between no two events if that message
is empty. -/
def Obligations.InitWalksThePhases : Prop :=
  ∀ (s : State) (arg : Byte) (m : Nat), s.seq = none → s.phase = .uninitialized →
    let u := (s.accept (.init arg)).ticks m
    u.tick.phase = u.phase ∨ (u.phase, u.tick.phase) ∈
        [(Phase.uninitialized, Phase.busReady), (.uninitialized, .failed), (.busReady, .fourBitMode),
          (.fourBitMode, .configured), (.configured, .ready)] ∨
      effectiveText s.cfg.selftestText = [] ∧ u.phase = .fourBitMode ∧ u.tick.phase = .ready
end

