-- ==== Sys2Proof/Laws/State.lean ====
section
/-! SUPPORT. One lemma per field per update of the state and of the transport boundary, so that no proof unfolds a record
update. -/

namespace Sys2Proof.Machine

variable (s : State)

@[simp] theorem setPhase_phase (p : Phase) : (s.setPhase p).phase = p := rfl
@[simp] theorem setPhase_backlightOn (p : Phase) : (s.setPhase p).backlightOn = s.backlightOn := rfl
@[simp] theorem setPhase_registerSelect (p : Phase) : (s.setPhase p).registerSelect = s.registerSelect := rfl
@[simp] theorem setPhase_readWrite (p : Phase) : (s.setPhase p).readWrite = s.readWrite := rfl
@[simp] theorem setPhase_seq (p : Phase) : (s.setPhase p).seq = s.seq := rfl
@[simp] theorem setPhase_bus (p : Phase) : (s.setPhase p).bus = s.bus := rfl
@[simp] theorem setPhase_statuses (p : Phase) : (s.setPhase p).statuses = s.statuses := rfl
@[simp] theorem setPhase_primResult (p : Phase) : (s.setPhase p).primResult = s.primResult := rfl
@[simp] theorem setPhase_inputs (p : Phase) : (s.setPhase p).inputs = s.inputs := rfl
@[simp] theorem setPhase_cfg (p : Phase) : (s.setPhase p).cfg = s.cfg := rfl
@[simp] theorem setPhase_granularity (p : Phase) : (s.setPhase p).granularity = s.granularity := rfl

@[simp] theorem setBacklight_phase (v : Bool) : (s.setBacklight v).phase = s.phase := rfl
@[simp] theorem setBacklight_backlightOn (v : Bool) : (s.setBacklight v).backlightOn = v := rfl
@[simp] theorem setBacklight_registerSelect (v : Bool) : (s.setBacklight v).registerSelect = s.registerSelect := rfl
@[simp] theorem setBacklight_readWrite (v : Bool) : (s.setBacklight v).readWrite = s.readWrite := rfl
@[simp] theorem setBacklight_seq (v : Bool) : (s.setBacklight v).seq = s.seq := rfl
@[simp] theorem setBacklight_bus (v : Bool) : (s.setBacklight v).bus = s.bus := rfl
@[simp] theorem setBacklight_statuses (v : Bool) : (s.setBacklight v).statuses = s.statuses := rfl
@[simp] theorem setBacklight_primResult (v : Bool) : (s.setBacklight v).primResult = s.primResult := rfl
@[simp] theorem setBacklight_inputs (v : Bool) : (s.setBacklight v).inputs = s.inputs := rfl
@[simp] theorem setBacklight_cfg (v : Bool) : (s.setBacklight v).cfg = s.cfg := rfl
@[simp] theorem setBacklight_granularity (v : Bool) : (s.setBacklight v).granularity = s.granularity := rfl

@[simp] theorem setRegisterSelect_phase (v : RegisterSelect) : (s.setRegisterSelect v).phase = s.phase := rfl
@[simp] theorem setRegisterSelect_backlightOn (v : RegisterSelect) : (s.setRegisterSelect v).backlightOn = s.backlightOn := rfl
@[simp] theorem setRegisterSelect_registerSelect (v : RegisterSelect) : (s.setRegisterSelect v).registerSelect = v := rfl
@[simp] theorem setRegisterSelect_readWrite (v : RegisterSelect) : (s.setRegisterSelect v).readWrite = s.readWrite := rfl
@[simp] theorem setRegisterSelect_seq (v : RegisterSelect) : (s.setRegisterSelect v).seq = s.seq := rfl
@[simp] theorem setRegisterSelect_bus (v : RegisterSelect) : (s.setRegisterSelect v).bus = s.bus := rfl
@[simp] theorem setRegisterSelect_statuses (v : RegisterSelect) : (s.setRegisterSelect v).statuses = s.statuses := rfl
@[simp] theorem setRegisterSelect_primResult (v : RegisterSelect) : (s.setRegisterSelect v).primResult = s.primResult := rfl
@[simp] theorem setRegisterSelect_inputs (v : RegisterSelect) : (s.setRegisterSelect v).inputs = s.inputs := rfl
@[simp] theorem setRegisterSelect_cfg (v : RegisterSelect) : (s.setRegisterSelect v).cfg = s.cfg := rfl
@[simp] theorem setRegisterSelect_granularity (v : RegisterSelect) : (s.setRegisterSelect v).granularity = s.granularity := rfl

@[simp] theorem setBus_phase (b : Bus) : (s.setBus b).phase = s.phase := rfl
@[simp] theorem setBus_backlightOn (b : Bus) : (s.setBus b).backlightOn = s.backlightOn := rfl
@[simp] theorem setBus_registerSelect (b : Bus) : (s.setBus b).registerSelect = s.registerSelect := rfl
@[simp] theorem setBus_readWrite (b : Bus) : (s.setBus b).readWrite = s.readWrite := rfl
@[simp] theorem setBus_seq (b : Bus) : (s.setBus b).seq = s.seq := rfl
@[simp] theorem setBus_bus (b : Bus) : (s.setBus b).bus = b := rfl
@[simp] theorem setBus_statuses (b : Bus) : (s.setBus b).statuses = s.statuses := rfl
@[simp] theorem setBus_primResult (b : Bus) : (s.setBus b).primResult = s.primResult := rfl
@[simp] theorem setBus_inputs (b : Bus) : (s.setBus b).inputs = s.inputs := rfl
@[simp] theorem setBus_cfg (b : Bus) : (s.setBus b).cfg = s.cfg := rfl
@[simp] theorem setBus_granularity (b : Bus) : (s.setBus b).granularity = s.granularity := rfl

@[simp] theorem setSeq_phase (r : Option Run) : (s.setSeq r).phase = s.phase := rfl
@[simp] theorem setSeq_backlightOn (r : Option Run) : (s.setSeq r).backlightOn = s.backlightOn := rfl
@[simp] theorem setSeq_registerSelect (r : Option Run) : (s.setSeq r).registerSelect = s.registerSelect := rfl
@[simp] theorem setSeq_readWrite (r : Option Run) : (s.setSeq r).readWrite = s.readWrite := rfl
@[simp] theorem setSeq_seq (r : Option Run) : (s.setSeq r).seq = r := rfl
@[simp] theorem setSeq_bus (r : Option Run) : (s.setSeq r).bus = s.bus := rfl
@[simp] theorem setSeq_statuses (r : Option Run) : (s.setSeq r).statuses = s.statuses := rfl
@[simp] theorem setSeq_primResult (r : Option Run) : (s.setSeq r).primResult = s.primResult := rfl
@[simp] theorem setSeq_inputs (r : Option Run) : (s.setSeq r).inputs = s.inputs := rfl
@[simp] theorem setSeq_cfg (r : Option Run) : (s.setSeq r).cfg = s.cfg := rfl
@[simp] theorem setSeq_granularity (r : Option Run) : (s.setSeq r).granularity = s.granularity := rfl

@[simp] theorem setInputs_phase (is : List Input) : (s.setInputs is).phase = s.phase := rfl
@[simp] theorem setInputs_backlightOn (is : List Input) : (s.setInputs is).backlightOn = s.backlightOn := rfl
@[simp] theorem setInputs_registerSelect (is : List Input) : (s.setInputs is).registerSelect = s.registerSelect := rfl
@[simp] theorem setInputs_readWrite (is : List Input) : (s.setInputs is).readWrite = s.readWrite := rfl
@[simp] theorem setInputs_seq (is : List Input) : (s.setInputs is).seq = s.seq := rfl
@[simp] theorem setInputs_bus (is : List Input) : (s.setInputs is).bus = s.bus := rfl
@[simp] theorem setInputs_statuses (is : List Input) : (s.setInputs is).statuses = s.statuses := rfl
@[simp] theorem setInputs_primResult (is : List Input) : (s.setInputs is).primResult = s.primResult := rfl
@[simp] theorem setInputs_inputs (is : List Input) : (s.setInputs is).inputs = is := rfl
@[simp] theorem setInputs_cfg (is : List Input) : (s.setInputs is).cfg = s.cfg := rfl
@[simp] theorem setInputs_granularity (is : List Input) : (s.setInputs is).granularity = s.granularity := rfl

@[simp] theorem respond_phase (st : Status) : (s.respond st).phase = s.phase := rfl
@[simp] theorem respond_backlightOn (st : Status) : (s.respond st).backlightOn = s.backlightOn := rfl
@[simp] theorem respond_registerSelect (st : Status) : (s.respond st).registerSelect = s.registerSelect := rfl
@[simp] theorem respond_readWrite (st : Status) : (s.respond st).readWrite = s.readWrite := rfl
@[simp] theorem respond_seq (st : Status) : (s.respond st).seq = s.seq := rfl
@[simp] theorem respond_bus (st : Status) : (s.respond st).bus = s.bus := rfl
@[simp] theorem respond_statuses (st : Status) : (s.respond st).statuses = s.statuses ++ [st] := rfl
@[simp] theorem respond_primResult (st : Status) : (s.respond st).primResult = s.primResult := rfl
@[simp] theorem respond_inputs (st : Status) : (s.respond st).inputs = s.inputs := rfl
@[simp] theorem respond_cfg (st : Status) : (s.respond st).cfg = s.cfg := rfl
@[simp] theorem respond_granularity (st : Status) : (s.respond st).granularity = s.granularity := rfl

@[simp] theorem handBack_phase (r : PrimResult) : (s.handBack r).phase = s.phase := rfl
@[simp] theorem handBack_backlightOn (r : PrimResult) : (s.handBack r).backlightOn = s.backlightOn := rfl
@[simp] theorem handBack_registerSelect (r : PrimResult) : (s.handBack r).registerSelect = s.registerSelect := rfl
@[simp] theorem handBack_readWrite (r : PrimResult) : (s.handBack r).readWrite = s.readWrite := rfl
@[simp] theorem handBack_seq (r : PrimResult) : (s.handBack r).seq = s.seq := rfl
@[simp] theorem handBack_bus (r : PrimResult) : (s.handBack r).bus = s.bus := rfl
@[simp] theorem handBack_statuses (r : PrimResult) : (s.handBack r).statuses = s.statuses := rfl
@[simp] theorem handBack_primResult (r : PrimResult) : (s.handBack r).primResult = some r := rfl
@[simp] theorem handBack_inputs (r : PrimResult) : (s.handBack r).inputs = s.inputs := rfl
@[simp] theorem handBack_cfg (r : PrimResult) : (s.handBack r).cfg = s.cfg := rfl
@[simp] theorem handBack_granularity (r : PrimResult) : (s.handBack r).granularity = s.granularity := rfl

/-! ## Two updates of one field, and the order of updates -/

@[simp] theorem setPhase_setPhase (p q : Phase) : (s.setPhase p).setPhase q = s.setPhase q := rfl
@[simp] theorem setBacklight_setBacklight (v w : Bool) : (s.setBacklight v).setBacklight w = s.setBacklight w := rfl
@[simp] theorem setRegisterSelect_setRegisterSelect (v w : RegisterSelect) :
    (s.setRegisterSelect v).setRegisterSelect w = s.setRegisterSelect w := rfl
@[simp] theorem setBus_setBus (b c : Bus) : (s.setBus b).setBus c = s.setBus c := rfl
@[simp] theorem setBus_self : s.setBus s.bus = s := rfl
@[simp] theorem setSeq_setSeq (r q : Option Run) : (s.setSeq r).setSeq q = s.setSeq q := rfl
@[simp] theorem setSeq_self : s.setSeq s.seq = s := rfl
@[simp] theorem setInputs_self : s.setInputs s.inputs = s := rfl
@[simp] theorem setSeq_setBus (r : Option Run) (b : Bus) : (s.setSeq r).setBus b = (s.setBus b).setSeq r := rfl
@[simp] theorem setSeq_setPhase (r : Option Run) (p : Phase) : (s.setSeq r).setPhase p = (s.setPhase p).setSeq r := rfl
@[simp] theorem setSeq_setBacklight (r : Option Run) (v : Bool) :
    (s.setSeq r).setBacklight v = (s.setBacklight v).setSeq r := rfl
@[simp] theorem setSeq_setRegisterSelect (r : Option Run) (v : RegisterSelect) :
    (s.setSeq r).setRegisterSelect v = (s.setRegisterSelect v).setSeq r := rfl

/-! ## What depends on the control bits only -/

@[simp] theorem setBus_baseFrame (b : Bus) (n : Byte) : (s.setBus b).baseFrame n = s.baseFrame n := rfl
@[simp] theorem setSeq_baseFrame (r : Option Run) (n : Byte) : (s.setSeq r).baseFrame n = s.baseFrame n := rfl
@[simp] theorem setPhase_baseFrame (p : Phase) (n : Byte) : (s.setPhase p).baseFrame n = s.baseFrame n := rfl
@[simp] theorem setBus_bits (b : Bus) : (s.setBus b).bits = s.bits := rfl
@[simp] theorem setSeq_bits (r : Option Run) : (s.setSeq r).bits = s.bits := rfl
@[simp] theorem setInputs_bits (is : List Input) : (s.setInputs is).bits = s.bits := rfl
@[simp] theorem respond_bits (st : Status) : (s.respond st).bits = s.bits := rfl
@[simp] theorem handBack_bits (r : PrimResult) : (s.handBack r).bits = s.bits := rfl

/-! ## The hardware reset -/

@[simp] theorem hardReset_phase : s.hardReset.phase = .uninitialized := rfl
@[simp] theorem hardReset_backlightOn : s.hardReset.backlightOn = false := rfl
@[simp] theorem hardReset_registerSelect : s.hardReset.registerSelect = .command := rfl
@[simp] theorem hardReset_readWrite : s.hardReset.readWrite = .write := rfl
@[simp] theorem hardReset_seq : s.hardReset.seq = none := rfl
@[simp] theorem hardReset_trace : s.hardReset.bus.trace = [] := rfl
@[simp] theorem hardReset_statuses : s.hardReset.statuses = [] := rfl
@[simp] theorem hardReset_cfg : s.hardReset.cfg = s.cfg := rfl
@[simp] theorem hardReset_inputs : s.hardReset.inputs = s.inputs := rfl

/-! ## The transport boundary -/

variable (b : Bus)

@[simp] theorem log_trace (evs : List Event) : (b.log evs).trace = b.trace ++ evs := rfl
@[simp] theorem log_writes (evs : List Event) : (b.log evs).writes = b.writes := rfl
@[simp] theorem log_writeCalls (evs : List Event) : (b.log evs).writeCalls = b.writeCalls := rfl
@[simp] theorem log_begins (evs : List Event) : (b.log evs).begins = b.begins := rfl
@[simp] theorem log_beginCalls (evs : List Event) : (b.log evs).beginCalls = b.beginCalls := rfl
@[simp] theorem after_trace (n : Nat) (evs : List Event) : (b.after n evs).trace = b.trace ++ evs := rfl
@[simp] theorem after_writes (n : Nat) (evs : List Event) : (b.after n evs).writes = b.writes.drop n := rfl
@[simp] theorem after_writeCalls (n : Nat) (evs : List Event) : (b.after n evs).writeCalls = b.writeCalls + n := rfl
@[simp] theorem after_begins (n : Nat) (evs : List Event) : (b.after n evs).begins = b.begins := rfl
@[simp] theorem after_beginCalls (n : Nat) (evs : List Event) : (b.after n evs).beginCalls = b.beginCalls := rfl
@[simp] theorem callBegin_trace : b.callBegin.2.trace = b.trace ++ [.began (b.beginAnswer 0)] := rfl
@[simp] theorem callBegin_writes : b.callBegin.2.writes = b.writes := rfl
@[simp] theorem callBegin_writeCalls : b.callBegin.2.writeCalls = b.writeCalls := rfl
@[simp] theorem callBegin_answer : b.callBegin.1 = b.beginAnswer 0 := rfl
@[simp] theorem callWrite_answer (f : Byte) : (b.callWrite f).1 = b.writeAnswer 0 := rfl
@[simp] theorem callWrite_trace (f : Byte) : (b.callWrite f).2.trace = b.trace ++ [.tx f (b.writeAnswer 0)] := rfl

end Sys2Proof.Machine
end

