-- ==== Sys2Proof/Laws/Bus.lean ====
section
/-! SUPPORT. What the transport calls, a frame and an enable pulse can do (20_memory.md R41 to R44; 41_framing.md R101,
R102), said once: each leaves a bus of the form `after n evs`. -/

namespace Sys2Proof.Machine

variable (b : Bus) (settle : Micros) (f : Byte)

/-! ## `after` -/

@[simp] theorem after_after (m n : Nat) (evs evs' : List Event) :
    (b.after m evs).after n evs' = b.after (m + n) (evs ++ evs') := by
  simp [Bus.after, List.append_assoc, Nat.add_assoc]

@[simp] theorem after_nothing : b.after 0 [] = b := by simp [Bus.after]

/-- A bus that has answered `n` writes gives next what it would have given after them. -/
@[simp] theorem after_writeAnswer (n : Nat) (evs : List Event) (k : Nat) :
    (b.after n evs).writeAnswer k = b.writeAnswer (n + k) := by
  simp [Bus.writeAnswer, Bus.after, Nat.add_assoc]

@[simp] theorem log_writeAnswer (evs : List Event) (k : Nat) : (b.log evs).writeAnswer k = b.writeAnswer k := rfl

@[simp] theorem callBegin_writeAnswer (k : Nat) : b.callBegin.2.writeAnswer k = b.writeAnswer k := rfl

theorem log_eq_after (evs : List Event) : b.log evs = b.after 0 evs := by simp [Bus.log, Bus.after]

/-- Accepting `m + n` writes is accepting `m`, and `n` after them. -/
theorem accepts_add (m n : Nat) (evs : List Event) :
    b.accepts (m + n) ↔ b.accepts m ∧ (b.after m evs).accepts n := by
  constructor
  · intro h
    refine ⟨fun k hk => h k (by omega), fun k hk => ?_⟩
    rw [after_writeAnswer]
    exact h _ (by omega)
  · rintro ⟨h, h'⟩ k hk
    by_cases hm : k < m
    · exact h k hm
    · have := h' (k - m) (by omega)
      rwa [after_writeAnswer, Nat.add_sub_cancel' (by omega)] at this

theorem accepts_mono {m n : Nat} (hmn : m ≤ n) (h : b.accepts n) : b.accepts m := fun k hk => h k (by omega)

/-! ## A frame and a pulse -/

/-- One frame consumes one answer and leaves its write and its wait (R101). -/
theorem sendFrame_eq :
    b.sendFrame settle f =
      (statusOfWrite (b.writeAnswer 0), b.after 1 [.tx f (b.writeAnswer 0), .wait settle]) := by
  simp [Bus.sendFrame, Bus.callWrite, Bus.wait, Bus.log, Bus.after, List.append_assoc]

@[simp] theorem statusOfWrite_zero : statusOfWrite 0 = .ok := rfl

theorem statusOfWrite_ne {st : Int} (h : st ≠ 0) : statusOfWrite st = .errIo := by simp [statusOfWrite, h]

@[simp] theorem statusOfWrite_eq_ok (st : Int) : statusOfWrite st = .ok ↔ st = 0 := by
  simp [statusOfWrite]

/-- A status of the framing layer is `OK` or `ERR_IO` (R163). -/
theorem statusOfWrite_cases (st : Int) : statusOfWrite st = .ok ∨ statusOfWrite st = .errIo := by
  unfold statusOfWrite
  split <;> simp

theorem andThen_ok (c : Bus) (k : Bus → Status × Bus) : Bus.andThen (.ok, c) k = k c := rfl

theorem andThen_failed {st : Status} (c : Bus) (k : Bus → Status × Bus) (h : st ≠ .ok) :
    Bus.andThen (st, c) k = (st, c) := by
  rw [Bus.andThen, if_neg h]

theorem andThen_errIo (c : Bus) (k : Bus → Status × Bus) : Bus.andThen (.errIo, c) k = (.errIo, c) := rfl

/-- An enable pulse that is accepted: low, high, low, each with its settling delay (R101). -/
theorem pulse_accepted (h : b.accepts 3) :
    b.pulse settle f = (.ok, b.after 3 (acceptedFrames settle (nibbleFrames f))) := by
  have h0 := h 0 (by omega)
  have h1 := h 1 (by omega)
  have h2 := h 2 (by omega)
  simp [Bus.pulse, sendFrame_eq, h0, h1, h2, andThen_ok, acceptedFrames, nibbleFrames, enableHigh, maskEN]

/-- An enable pulse that fails at frame `k`: the frames before it, it, and nothing more (R102). -/
theorem pulse_cut {k : Nat} (hk : k < 3) (h : b.accepts k) (hst : b.writeAnswer k ≠ 0) :
    b.pulse settle f = (.errIo, b.after (k + 1) (cutFrames settle (nibbleFrames f) k (b.writeAnswer k))) := by
  rcases (by omega : k = 0 ∨ k = 1 ∨ k = 2) with rfl | rfl | rfl
  · simp [Bus.pulse, sendFrame_eq, statusOfWrite_ne hst, andThen_errIo, cutFrames, acceptedFrames, nibbleFrames]
  · have h0 := h 0 (by omega)
    simp [Bus.pulse, sendFrame_eq, h0, statusOfWrite_ne hst, andThen_ok, andThen_errIo, cutFrames, acceptedFrames,
      nibbleFrames, enableHigh, maskEN]
  · have h0 := h 0 (by omega)
    have h1 := h 1 (by omega)
    simp [Bus.pulse, sendFrame_eq, h0, h1, statusOfWrite_ne hst, andThen_ok, cutFrames, acceptedFrames, nibbleFrames,
      enableHigh, maskEN]

/-- Either all of the next `n` writes are accepted, or there is a first that is not. -/
theorem accepts_or_first (n : Nat) : b.accepts n ∨ ∃ k < n, b.accepts k ∧ b.writeAnswer k ≠ 0 := by
  induction n with
  | zero => exact .inl fun k hk => absurd hk (by omega)
  | succ n ih =>
    rcases ih with h | ⟨k, hk, ha, hst⟩
    · by_cases hn : b.writeAnswer n = 0
      · refine .inl fun k hk => ?_
        rcases Nat.lt_succ_iff_lt_or_eq.mp hk with h' | rfl
        · exact h k h'
        · exact hn
      · exact .inr ⟨n, by omega, h, hn⟩
    · exact .inr ⟨k, by omega, ha, hst⟩

/-- Everything an enable pulse can do (R101, R102). -/
theorem pulse_cases :
    (b.accepts 3 ∧ b.pulse settle f = (.ok, b.after 3 (acceptedFrames settle (nibbleFrames f)))) ∨
    (∃ k < 3, b.accepts k ∧ b.writeAnswer k ≠ 0 ∧
      b.pulse settle f = (.errIo, b.after (k + 1) (cutFrames settle (nibbleFrames f) k (b.writeAnswer k)))) := by
  rcases accepts_or_first b 3 with h | ⟨k, hk, h, hst⟩
  · exact .inl ⟨h, pulse_accepted b settle f h⟩
  · exact .inr ⟨k, hk, h, hst, pulse_cut b settle f hk h hst⟩

end Sys2Proof.Machine
end

