-- ==== Sys2Proof/Laws/Decode.lean ====
section
/-! SUPPORT. The fields of a host word (30_encoding.md R64), what the decoder makes of its two bytes, and the three frame
formats read back (R61, R63). -/

namespace Sys2Proof

theorem hostWord_fields (op : BitVec 3) (arg : Byte) :
    opField (hostWord op arg) = op ∧ argField (hostWord op arg) = arg := by
  revert op arg
  decide

/-- The two bytes of a host word: the operand, then the operation (R64). -/
theorem hostWordBytes_hostWord (op : BitVec 3) (arg : Byte) : hostWordBytes (hostWord op arg) = [arg, op.setWidth 8] := by
  revert op arg
  decide

/-- The byte decoder on the bytes of a host word and what follows them (R64, R68). -/
theorem decode_hostWordBytes (op : BitVec 3) (arg : Byte) (text : List Byte) (h : op = 1 ∨ text = []) :
    decode .host (hostWordBytes (hostWord op arg) ++ text) = .ok (decodeCommand (hostWord op arg) text) := by
  have facts : ∀ op : BitVec 3, (op.setWidth 8).toNat < 8 ∧ BitVec.setWidth 3 (op.setWidth 8) = op ∧
      (BitVec.setWidth 8 op = 1 ↔ op = 1) := by decide
  obtain ⟨h1, h2, h3⟩ := facts op
  rw [hostWordBytes_hostWord]
  simp only [decode, decodeHostBytes, List.cons_append, List.nil_append, h1, if_true, h2, h3, h]

/-- Every frame is read back with its nibble and its control bits (R61, R63). -/
theorem decodeFrame_frameBits : ∀ (nibble : Nibble) (bl en rs : Bool),
    decodeFrame (frameBits nibble bl en true rs) = .frameRwSet nibble bl en rs ∧
      decodeFrame (frameBits nibble bl true false rs) = .frameEnHigh nibble bl rs ∧
      decodeFrame (frameBits nibble bl false false rs) = .frameEnLow nibble bl rs := by
  decide

/-- Every byte is a frame, and the frame it is encodes to it (R61). -/
theorem encode_decodeFrame : ∀ f : Byte, encode (decodeFrame f) = some ⟨.frame, [f]⟩ ∧ (decodeFrame f).wf = true := by
  decide

end Sys2Proof
end

