-- ==== Sys2Proof/Laws/Ops.lean ====
section
/-! SUPPORT. One spec lemma per shared operation: everything WRITE_NIBBLE, WRITE_BYTE, CMD_BYTE and the character loop of a
message can do (41_framing.md R100 to R106, 43_operations.md R143), for callers to cite. -/

namespace Sys2Proof.Machine

variable (s : State)

/-! ## Frame assembly -/

theorem low_nibble_shift (n : Byte) : (n &&& 0x0F) <<< 4 = n <<< 4 := by
  revert n; decide

/-- With the read/write bit at `Write` the base frame is the closed form of the statements (R62). -/
theorem baseFrame_eq_frameOf (h : s.readWrite = .write) :
    s.baseFrame = frameOf s.backlightOn s.registerSelect := by
  funext n
  rw [State.baseFrame, baseFrame, low_nibble_shift]
  simp [frameOf, h, maskBL, maskRS]

/-- Only bits 3:0 of a nibble operand count (R62). -/
theorem baseFrame_low_nibble (n : Byte) : s.baseFrame (n &&& 0x0F) = s.baseFrame n := by
  simp [State.baseFrame, baseFrame, BitVec.and_assoc]

/-! ## Cut traces -/

theorem acceptedFrames_append (settle : Micros) (fs gs : List Byte) :
    acceptedFrames settle (fs ++ gs) = acceptedFrames settle fs ++ acceptedFrames settle gs := by
  simp [acceptedFrames]

theorem cutFrames_left (settle : Micros) (fs gs : List Byte) {k : Nat} (hk : k < fs.length) (st : Int) :
    cutFrames settle (fs ++ gs) k st = cutFrames settle fs k st := by
  simp [cutFrames, List.take_append_of_le_length (Nat.le_of_lt hk), List.getElem?_append_left hk]

theorem cutFrames_right (settle : Micros) (fs gs : List Byte) (k : Nat) (st : Int) :
    cutFrames settle (fs ++ gs) (fs.length + k) st = acceptedFrames settle fs ++ cutFrames settle gs k st := by
  have htake : (fs ++ gs).take (fs.length + k) = fs ++ gs.take k := by
    rw [List.take_append, List.take_of_length_le (by omega), Nat.add_sub_cancel_left]
  simp [cutFrames, htake, acceptedFrames_append, List.getElem?_append_right, List.append_assoc]

@[simp] theorem nibbleFrames_length (f : Byte) : (nibbleFrames f).length = 3 := rfl

@[simp] theorem byteFrames_length (base : Byte → Byte) (code : Byte) : (byteFrames base code).length = 6 := rfl

/-! ## WRITE_NIBBLE -/

/-- WRITE_NIBBLE changes the bus and nothing else (R100). -/
theorem writeNibble_eq (n : Byte) :
    s.writeNibble n = ((s.bus.pulse s.cfg.tSettle (s.baseFrame n)).1,
      s.setBus (s.bus.pulse s.cfg.tSettle (s.baseFrame n)).2) := rfl

theorem writeNibble_accepted (n : Byte) (h : s.bus.accepts 3) :
    s.writeNibble n =
      (.ok, s.setBus (s.bus.after 3 (acceptedFrames s.cfg.tSettle (nibbleFrames (s.baseFrame n))))) := by
  rw [writeNibble_eq, pulse_accepted _ _ _ h]

theorem writeNibble_cut (n : Byte) {k : Nat} (hk : k < 3) (h : s.bus.accepts k) (hst : s.bus.writeAnswer k ≠ 0) :
    s.writeNibble n = (.errIo, s.setBus (s.bus.after (k + 1)
      (cutFrames s.cfg.tSettle (nibbleFrames (s.baseFrame n)) k (s.bus.writeAnswer k)))) := by
  rw [writeNibble_eq, pulse_cut _ _ _ hk h hst]

/-! ## WRITE_BYTE -/

theorem writeByte_accepted (code : Byte) (h : s.bus.accepts 6) :
    s.writeByte code =
      (.ok, s.setBus (s.bus.after 6 (acceptedFrames s.cfg.tSettle (byteFrames s.baseFrame code)))) := by
  have hh := (accepts_add s.bus 3 3 (acceptedFrames s.cfg.tSettle (nibbleFrames (s.baseFrame (highNibble code))))).mp h
  have h2 := hh.2
  simp only [State.writeByte, writeNibble_accepted s _ hh.1, if_true]
  rw [writeNibble_accepted _ _ (by simpa using h2)]
  simp [byteFrames, acceptedFrames_append, highNibble, lowNibble]

theorem writeByte_cut (code : Byte) {k : Nat} (hk : k < 6) (h : s.bus.accepts k) (hst : s.bus.writeAnswer k ≠ 0) :
    s.writeByte code = (.errIo, s.setBus (s.bus.after (k + 1)
      (cutFrames s.cfg.tSettle (byteFrames s.baseFrame code) k (s.bus.writeAnswer k)))) := by
  by_cases h3 : k < 3
  · simp only [State.writeByte, writeNibble_cut s _ h3 h hst]
    rw [byteFrames, cutFrames_left _ _ _ (by simpa using h3)]
    rfl
  · obtain ⟨j, rfl⟩ : ∃ j, k = 3 + j := ⟨k - 3, by omega⟩
    have hh := (accepts_add s.bus 3 j
      (acceptedFrames s.cfg.tSettle (nibbleFrames (s.baseFrame (highNibble code))))).mp h
    simp only [State.writeByte, writeNibble_accepted s _ hh.1, if_true]
    rw [writeNibble_cut _ _ (k := j) (by omega) (by simpa using hh.2) (by simpa using hst)]
    have := cutFrames_right s.cfg.tSettle (nibbleFrames (s.baseFrame (highNibble code)))
      (nibbleFrames (s.baseFrame (lowNibble code))) j (s.bus.writeAnswer (3 + j))
    simp only [nibbleFrames_length] at this
    simp [byteFrames, highNibble, lowNibble] at this ⊢
    simp [this, Nat.add_assoc]

/-- Everything a WRITE_BYTE can do (R103, R104). -/
theorem writeByte_cases (code : Byte) :
    (s.bus.accepts 6 ∧ s.writeByte code =
      (.ok, s.setBus (s.bus.after 6 (acceptedFrames s.cfg.tSettle (byteFrames s.baseFrame code))))) ∨
    (∃ k < 6, s.bus.accepts k ∧ s.bus.writeAnswer k ≠ 0 ∧ s.writeByte code =
      (.errIo, s.setBus (s.bus.after (k + 1)
        (cutFrames s.cfg.tSettle (byteFrames s.baseFrame code) k (s.bus.writeAnswer k))))) := by
  rcases accepts_or_first s.bus 6 with h | ⟨k, hk, h, hst⟩
  · exact .inl ⟨h, writeByte_accepted s code h⟩
  · exact .inr ⟨k, hk, h, hst, writeByte_cut s code hk h hst⟩

/-- WRITE_BYTE as two enable pulses on the bus (R103). -/
theorem writeByte_bus (code : Byte) :
    s.writeByte code =
      let r := Bus.andThen (s.bus.pulse s.cfg.tSettle (s.baseFrame (highNibble code))) fun b =>
        b.pulse s.cfg.tSettle (s.baseFrame (lowNibble code))
      (r.1, s.setBus r.2) := by
  simp only [State.writeByte, writeNibble_eq, Bus.andThen]
  by_cases h : (s.bus.pulse s.cfg.tSettle (s.baseFrame (highNibble code))).1 = .ok
  · simp only [h, if_true]
    rfl
  · simp only [h, if_false]

/-- WRITE_BYTE does not read the sequencer. -/
theorem writeByte_setSeq (r : Option Run) (code : Byte) :
    (s.setSeq r).writeByte code = ((s.writeByte code).1, (s.writeByte code).2.setSeq r) := by
  rw [writeByte_bus, writeByte_bus]
  rfl

/-- The framing layer touches the bus and nothing else. -/
theorem writeByte_state (code : Byte) : (s.writeByte code).2 = s.setBus (s.writeByte code).2.bus := by
  rcases writeByte_cases s code with ⟨_, h⟩ | ⟨_, _, _, _, h⟩ <;> simp [h]

theorem writeByte_status (code : Byte) : (s.writeByte code).1 = .ok ∨ (s.writeByte code).1 = .errIo := by
  rcases writeByte_cases s code with ⟨_, h⟩ | ⟨_, _, _, _, h⟩ <;> simp [h]

/-! ## CMD_BYTE -/

/-- CMD_BYTE is WRITE_BYTE and one more delay (R106). -/
theorem cmdByte_eq (b : Byte) :
    s.cmdByte b = ((s.writeByte b).1, s.setBus ((s.writeByte b).2.bus.after 0 [.wait s.cfg.tCmd])) := by
  conv_lhs => rw [State.cmdByte, writeByte_state]
  simp [Bus.wait, log_eq_after]

theorem cmdByte_accepted (b : Byte) (h : s.bus.accepts 6) :
    s.cmdByte b = (.ok, s.setBus (s.bus.after 6
      (acceptedFrames s.cfg.tSettle (byteFrames s.baseFrame b) ++ [.wait s.cfg.tCmd]))) := by
  rw [cmdByte_eq, writeByte_accepted s b h]
  simp

theorem cmdByte_cut (b : Byte) {k : Nat} (hk : k < 6) (h : s.bus.accepts k) (hst : s.bus.writeAnswer k ≠ 0) :
    s.cmdByte b = (.errIo, s.setBus (s.bus.after (k + 1)
      (cutFrames s.cfg.tSettle (byteFrames s.baseFrame b) k (s.bus.writeAnswer k) ++ [.wait s.cfg.tCmd]))) := by
  rw [cmdByte_eq, writeByte_cut s b hk h hst]
  simp

theorem cmdByte_state (b : Byte) : (s.cmdByte b).2 = s.setBus (s.cmdByte b).2.bus := by
  rw [cmdByte_eq]
  rfl

theorem cmdByte_status (b : Byte) : (s.cmdByte b).1 = .ok ∨ (s.cmdByte b).1 = .errIo := by
  rw [cmdByte_eq]
  exact writeByte_status s b

/-! ## The character loop -/

theorem sendText_nil : State.sendText [] s = (.ok, s) := rfl

theorem sendText_null (rest : List Byte) : State.sendText (0 :: rest) s = (.ok, s) := by
  rw [State.sendText, if_pos rfl]

/-- The loop on a character that is not the terminator (R143). -/
theorem sendText_cons {c : Byte} (hc : c ≠ 0) (rest : List Byte) :
    State.sendText (c :: rest) s =
      if (s.writeByte (glyphCode s.cfg c)).1 ≠ .ok ∧ s.cfg.errPolicy = .abort then
        (.errIo, (s.writeByte (glyphCode s.cfg c)).2)
      else
        ((s.writeByte (glyphCode s.cfg c)).1.join (State.sendText rest (s.writeByte (glyphCode s.cfg c)).2).1,
          (State.sendText rest (s.writeByte (glyphCode s.cfg c)).2).2) := by
  rw [State.sendText, if_neg hc]

/-- The loop changes the bus and nothing else, whatever the transport answers (R144). -/
theorem sendText_state (text : List Byte) : (State.sendText text s).2 = s.setBus (State.sendText text s).2.bus := by
  induction text generalizing s with
  | nil => rfl
  | cons c rest ih =>
    by_cases hc : c = 0
    · subst hc
      rw [sendText_null]
      rfl
    · rw [sendText_cons s hc]
      split
      · exact writeByte_state s _
      · dsimp only
        rw [ih, writeByte_state s]
        rfl

theorem join_cases (a b : Status) : a.join b = .ok ∨ a.join b = .errIo := by
  unfold Status.join
  split <;> simp

theorem sendText_status (text : List Byte) :
    (State.sendText text s).1 = .ok ∨ (State.sendText text s).1 = .errIo := by
  cases text with
  | nil => exact .inl rfl
  | cons c rest =>
    by_cases hc : c = 0
    · subst hc
      exact .inl (by rw [sendText_null])
    · rw [sendText_cons s hc]
      split
      · exact .inr rfl
      · exact join_cases _ _

/-- Only the effective text matters (R68). -/
theorem sendText_effectiveText (text : List Byte) : State.sendText (effectiveText text) s = State.sendText text s := by
  induction text generalizing s with
  | nil => rfl
  | cons c rest ih =>
    by_cases hc : c = 0
    · subst hc
      rw [sendText_null, effectiveText, List.takeWhile_cons_of_neg (by simp), sendText_nil]
    · have : effectiveText (c :: rest) = c :: effectiveText rest := by
        rw [effectiveText, List.takeWhile_cons_of_pos (by simpa using hc), effectiveText]
      rw [this, sendText_cons s hc, sendText_cons s hc, ih]

end Sys2Proof.Machine
end

