-- ==== Sys2Proof/Laws/Operations.lean ====
section
/-! SUPPORT. What a message's character loop does to a transport that accepts (43_operations.md R143, R151), how it goes
on after a prefix that was accepted, and what the parts of INIT leave unchanged (42_init.md R122 to R124). -/

namespace Sys2Proof.Machine

variable (s : State)

theorem byteFrames_eq_frameOf (h : s.readWrite = .write) (code : Byte) :
    byteFrames s.baseFrame code = byteFrames (frameOf s.backlightOn s.registerSelect) code := by
  rw [baseFrame_eq_frameOf s h]

/-- No effective text has a `0x00` in it (R68). -/
theorem effectiveText_no_null (text : List Byte) : (0 : Byte) ∉ effectiveText text := by
  intro h
  have := List.mem_takeWhile_imp h
  simp at this

/-! ## Statuses -/

theorem join_assoc (a b c : Status) : (a.join b).join c = a.join (b.join c) := by
  cases a <;> cases b <;> cases c <;> rfl

theorem ok_join {a : Status} (h : a = .ok ∨ a = .errIo) : Status.join .ok a = a := by
  rcases h with rfl | rfl <;> rfl

theorem join_ok {a : Status} (h : a = .ok ∨ a = .errIo) : a.join .ok = a := by
  rcases h with rfl | rfl <;> rfl

/-! ## The character loop -/

/-- The loop over a prefix that is accepted, then over whatever follows it (R143). -/
theorem sendText_append (sent more : List Byte) (hw : s.readWrite = .write) (hr : s.registerSelect = .character)
    (hn : (0 : Byte) ∉ sent) (ha : s.bus.accepts (6 * sent.length)) :
    State.sendText (sent ++ more) s =
      State.sendText more (s.setBus (s.bus.after (6 * sent.length) (textEvents s.cfg s.backlightOn sent))) := by
  induction sent generalizing s with
  | nil => simp [textEvents]
  | cons c rest ih =>
    simp only [List.mem_cons, not_or] at hn
    have hlen : 6 * (c :: rest).length = 6 + 6 * rest.length := by simp [Nat.mul_add, Nat.add_comm]
    rw [hlen] at ha ⊢
    have hh := (accepts_add s.bus 6 _
      (acceptedFrames s.cfg.tSettle (byteFrames s.baseFrame (glyphCode s.cfg c)))).mp ha
    rw [List.cons_append, sendText_cons s (Ne.symm hn.1), writeByte_accepted s _ hh.1]
    simp only [ne_eq, not_true_eq_false, false_and, if_false]
    rw [ih (s.setBus (s.bus.after 6 (acceptedFrames s.cfg.tSettle (byteFrames s.baseFrame (glyphCode s.cfg c)))))
      hw hr hn.2 hh.2]
    have key : ∀ u : State, u = s.setBus (s.bus.after (6 + 6 * rest.length)
        (textEvents s.cfg s.backlightOn (c :: rest))) →
        (Status.join .ok (State.sendText more u).1, (State.sendText more u).2) = State.sendText more u := by
      intro u _
      rw [ok_join (sendText_status u more)]
    have hu : (s.setBus (s.bus.after 6 (acceptedFrames s.cfg.tSettle (byteFrames s.baseFrame (glyphCode s.cfg c))))).setBus
        ((s.bus.after 6 (acceptedFrames s.cfg.tSettle (byteFrames s.baseFrame (glyphCode s.cfg c)))).after
          (6 * rest.length) (textEvents s.cfg s.backlightOn rest)) =
        s.setBus (s.bus.after (6 + 6 * rest.length) (textEvents s.cfg s.backlightOn (c :: rest))) := by
      simp [textEvents, byteEvents, byteFrames_eq_frameOf s hw, hr]
    simp only [setBus_bus, setBus_cfg, setBus_backlightOn]
    rw [hu]
    exact key _ rfl

/-- The loop over a text that is accepted whole (R143, R151). -/
theorem sendText_accepted (text : List Byte) (hw : s.readWrite = .write) (hr : s.registerSelect = .character)
    (hn : (0 : Byte) ∉ text) (ha : s.bus.accepts (6 * text.length)) :
    State.sendText text s =
      (.ok, s.setBus (s.bus.after (6 * text.length) (textEvents s.cfg s.backlightOn text))) := by
  have := sendText_append s text [] hw hr hn ha
  rwa [List.append_nil, sendText_nil] at this

/-! ## INIT's parts -/

theorem cmdByte_unchanged (b : Byte) : ∃ bus, (s.cmdByte b).2 = s.setBus bus := ⟨_, cmdByte_state s b⟩

@[simp] theorem cmdByte_cfg (b : Byte) : (s.cmdByte b).2.cfg = s.cfg := by rw [cmdByte_state]; rfl

@[simp] theorem cmdByte_seq (b : Byte) : (s.cmdByte b).2.seq = s.seq := by rw [cmdByte_state]; rfl

/-- Sending another command byte after some leaves the same fields alone. -/
theorem setBus_cmdByte (bus : Bus) (b : Byte) : ∃ bus', ((s.setBus bus).cmdByte b).2 = s.setBus bus' := by
  obtain ⟨bus', h⟩ := cmdByte_unchanged (s.setBus bus) b
  exact ⟨bus', h⟩

/-- `BusReady → FourBitMode` writes `registerSelect`, `phase` and the bus (R122). -/
theorem enterFourBit_unchanged :
    ∃ bus, s.enterFourBit.2 = ((s.setRegisterSelect .command).setPhase .fourBitMode).setBus bus := by
  simp only [State.enterFourBit, State.joinThen, setRegisterSelect_cfg, setBus_cfg, cmdByte_cfg]
  obtain ⟨b, h⟩ := cmdByte_unchanged
    ((s.setBus (s.bus.callSetAddress s.cfg.i2cAddr)).setRegisterSelect .command) s.cfg.cmdFourbit
  rw [h]
  obtain ⟨b', h'⟩ := setBus_cmdByte
    ((s.setBus (s.bus.callSetAddress s.cfg.i2cAddr)).setRegisterSelect .command) b s.cfg.cmdFuncset
  rw [h']
  exact ⟨b', rfl⟩

/-- `FourBitMode → Configured` writes `phase` and the bus (R123). -/
theorem configure_unchanged : ∃ bus, s.configure.2 = (s.setPhase .configured).setBus bus := by
  simp only [State.configure, State.joinThen, cmdByte_cfg]
  obtain ⟨b, h⟩ := cmdByte_unchanged s s.cfg.cmdDispoff
  rw [h]
  obtain ⟨b, h⟩ := setBus_cmdByte s b s.cfg.cmdClear
  rw [h]
  obtain ⟨b, h⟩ := setBus_cmdByte s b s.cfg.cmdEntry
  rw [h]
  obtain ⟨b, h⟩ := setBus_cmdByte s b s.cfg.cmdDispon
  rw [h]
  exact ⟨b, rfl⟩

/-- `Configured → Ready` writes the three fields and the bus (R124). -/
theorem selftest_unchanged :
    ∃ bus, s.selftest.2 = (((s.setBacklight true).setRegisterSelect .character).setPhase .ready).setBus bus := by
  simp only [State.selftest, State.msgBody]
  rw [sendText_state]
  exact ⟨_, rfl⟩

end Sys2Proof.Machine
end

