-- ==== Sys2Proof/Laws/PerInstr.lean ====
section
/-! SUPPORT. The family `TableRow`: an instruction's word meets the `match` and `mask` columns of its row of
spec/opcode_table.json. -/

namespace Sys2Proof.Laws

/-- The instruction's encoding, as the opcode table numbers its bits, meets the `match` and `mask` columns of its row. -/
def TableRow.Statement (i : Instr) : Prop :=
  ∀ e m k, encode i = some e → tableMatchMask i = some (m, k) → e.tableWord &&& k = m

/-- The statement for an instruction whose encoding and row are known. -/
theorem TableRow.of_word {i : Instr} {e : Encoded} {m k : Nat} (he : encode i = some e)
    (hm : tableMatchMask i = some (m, k)) (h : e.tableWord &&& k = m) : TableRow.Statement i := by
  intro e' m' k' he' hm'
  rw [he] at he'
  rw [hm] at hm'
  cases he'
  cases hm'
  exact h

/-- The statement for an instruction without an encoding (R14). -/
theorem TableRow.of_none {i : Instr} (h : encode i = none) : TableRow.Statement i := by
  intro e m k he
  rw [h] at he
  cases he

/-- The table's number of a host word is the word itself (R64, R65). -/
theorem tableWord_host : ∀ (op : BitVec 3) (arg : Byte) (text : List Byte),
    (Encoded.mk .host (hostWordBytes (hostWord op arg) ++ text)).tableWord &&& 0x700 = 2 ^ 8 * op.toNat := by
  have h : ∀ (op : BitVec 3) (arg : Byte),
      (arg.toNat + 2 ^ 8 * (op.setWidth 8 : Byte).toNat) &&& 0x700 = 2 ^ 8 * op.toNat := by decide
  intro op arg text
  rw [hostWordBytes_hostWord]
  exact h op arg

theorem TableRow.init (arg : Byte) : TableRow.Statement (.init arg) :=
  TableRow.of_word rfl rfl (by simpa using tableWord_host 0 arg [])

theorem TableRow.msg (arg : Byte) (text : List Byte) : TableRow.Statement (.msg arg text) :=
  TableRow.of_word rfl rfl (tableWord_host 1 arg text)

theorem TableRow.clear (arg : Byte) : TableRow.Statement (.clear arg) :=
  TableRow.of_word rfl rfl (by simpa using tableWord_host 2 arg [])

theorem TableRow.home (arg : Byte) : TableRow.Statement (.home arg) :=
  TableRow.of_word rfl rfl (by simpa using tableWord_host 3 arg [])

theorem TableRow.goto (pos : Byte) : TableRow.Statement (.goto pos) :=
  TableRow.of_word rfl rfl (by simpa using tableWord_host 4 pos [])

theorem TableRow.teardown (arg : Byte) : TableRow.Statement (.teardown arg) :=
  TableRow.of_word rfl rfl (by simpa using tableWord_host 5 arg [])

theorem TableRow.reserved6 (arg : Byte) : TableRow.Statement (.reserved6 arg) :=
  TableRow.of_word rfl rfl (by simpa using tableWord_host 6 arg [])

theorem TableRow.reserved7 (arg : Byte) : TableRow.Statement (.reserved7 arg) :=
  TableRow.of_word rfl rfl (by simpa using tableWord_host 7 arg [])

theorem TableRow.frameEnLow (nibble : Nibble) (bl : Bool) (rs : Bool) : TableRow.Statement (.frameEnLow nibble bl rs) :=
  TableRow.of_word rfl rfl (by revert nibble bl rs; decide)

theorem TableRow.frameEnHigh (nibble : Nibble) (bl : Bool) (rs : Bool) : TableRow.Statement (.frameEnHigh nibble bl rs) :=
  TableRow.of_word rfl rfl (by revert nibble bl rs; decide)

theorem TableRow.frameRwSet (nibble : Nibble) (bl : Bool) (en : Bool) (rs : Bool) : TableRow.Statement (.frameRwSet nibble bl en rs) :=
  TableRow.of_word rfl rfl (by revert nibble bl en rs; decide)

theorem TableRow.lcdFourbit : TableRow.Statement .lcdFourbit :=
  TableRow.of_word rfl rfl (by decide)

theorem TableRow.lcdFuncset : TableRow.Statement .lcdFuncset :=
  TableRow.of_word rfl rfl (by decide)

theorem TableRow.lcdDispoff : TableRow.Statement .lcdDispoff :=
  TableRow.of_word rfl rfl (by decide)

theorem TableRow.lcdClear : TableRow.Statement .lcdClear :=
  TableRow.of_word rfl rfl (by decide)

theorem TableRow.lcdEntry : TableRow.Statement .lcdEntry :=
  TableRow.of_word rfl rfl (by decide)

theorem TableRow.lcdDispon : TableRow.Statement .lcdDispon :=
  TableRow.of_word rfl rfl (by decide)

theorem TableRow.lcdHome : TableRow.Statement .lcdHome :=
  TableRow.of_word rfl rfl (by decide)

theorem TableRow.lcdSetddram (addr : Addr7) : TableRow.Statement (.lcdSetddram addr) :=
  TableRow.of_word rfl rfl (by revert addr; decide)

theorem TableRow.glyph (g : Byte) : TableRow.Statement (.glyph g) :=
  TableRow.of_word rfl rfl (Nat.and_zero _)

theorem TableRow.encode (c : Byte) : TableRow.Statement (.encode c) :=
  TableRow.of_none rfl

theorem TableRow.writeNibble (n : Byte) : TableRow.Statement (.writeNibble n) :=
  TableRow.of_none rfl

theorem TableRow.writeByte (code : Byte) : TableRow.Statement (.writeByte code) :=
  TableRow.of_none rfl

theorem TableRow.cmdByte (b : Byte) : TableRow.Statement (.cmdByte b) :=
  TableRow.of_none rfl

end Sys2Proof.Laws
end

