-- ==== Sys2Proof/Laws/Sequencer.lean ====
section
/-! SUPPORT. The sequencer one small step at a time (41_framing.md R109): what a step does in each framing state, and what
it does from the first frame of a byte to the last, said once (`sends_byte`). -/

namespace Sys2Proof.Machine

variable (s : State)

/-! ## Counting small steps -/

@[simp] theorem ticks_zero : s.ticks 0 = s := rfl

theorem ticks_succ (n : Nat) : s.ticks (n + 1) = s.tick.ticks n := rfl

@[simp] theorem ticks_one : s.ticks 1 = s.tick := rfl

theorem ticks_add (m n : Nat) : s.ticks (m + n) = (s.ticks m).ticks n := by
  induction m generalizing s with
  | zero => rw [Nat.zero_add, ticks_zero]
  | succ m ih => rw [Nat.add_right_comm, ticks_succ, ih, ticks_succ]

/-- A byte is being sent: the framing machine is out of IDLE. -/
def State.sending (s : State) : Prop := ∃ q, s.seq = some q ∧ q.framing ≠ .idle

/-- `s` is at `t` after `n` small steps, and a byte is being sent all the way between. -/
def State.Sends (s : State) (n : Nat) (t : State) : Prop :=
  s.ticks n = t ∧ ∀ m, 0 < m → m < n → (s.ticks m).sending

theorem State.Sends.trans {s t u : State} {m n : Nat} (h : s.Sends m t) (ht : t.sending) (h' : t.Sends n u) :
    s.Sends (m + n) u := by
  refine ⟨by rw [ticks_add, h.1, h'.1], fun k hk hkn => ?_⟩
  by_cases hlt : k < m
  · exact h.2 k hk hlt
  · by_cases he : k = m
    · rw [he, h.1]
      exact ht
    · obtain ⟨j, rfl⟩ : ∃ j, k = m + j := ⟨k - m, by omega⟩
      rw [ticks_add, h.1]
      exact h'.2 j (by omega) (by omega)

/-! ## One small step -/

theorem tick_busy {r : Run} (h : s.seq = some r) : s.tick = s.tickRun r := by
  simp [State.tick, h]

/-! ## Going on to the next event -/

/-- Inside a byte the next event is at hand. -/
theorem goOn_sending {r : Run} (h : r.framing ≠ .idle) : s.goOn r = s.setSeq (some r) := if_neg h

theorem goOn_idle {r : Run} (h : r.framing = .idle) : s.goOn r = s.pass r.todo r := if_pos h

/-- Going on overwrites the sequencer. -/
@[simp] theorem setSeq_pass (q : Option Run) (items : List Item) (r : Run) : (s.setSeq q).pass items r = s.pass items r := by
  induction items generalizing s r with
  | nil => rfl
  | cons item rest ih =>
    cases item with
    | setPhase p => exact ih (s.setPhase p) r.pop
    | setBacklight v => exact ih (s.setBacklight v) r.pop
    | setRegisterSelect v => exact ih (s.setRegisterSelect v) r.pop
    | _ => rfl

@[simp] theorem setSeq_goOn (q : Option Run) (r : Run) : (s.setSeq q).goOn r = s.goOn r := by
  unfold State.goOn
  rw [setSeq_pass]
  rfl

/-- Going on touches no event. -/
@[simp] theorem pass_bus (items : List Item) (r : Run) : (s.pass items r).bus = s.bus := by
  induction items generalizing s r with
  | nil => rfl
  | cons item rest ih =>
    cases item with
    | setPhase p => exact ih (s.setPhase p) r.pop
    | setBacklight v => exact ih (s.setBacklight v) r.pop
    | setRegisterSelect v => exact ih (s.setRegisterSelect v) r.pop
    | _ => rfl

@[simp] theorem goOn_bus (r : Run) : (s.goOn r).bus = s.bus := by
  unfold State.goOn
  split
  · exact pass_bus s r.todo r
  · rfl

/-- What a small step of any state never writes (R7, R23). -/
def State.SameSetting (s t : State) : Prop :=
  t.readWrite = s.readWrite ∧ t.inputs = s.inputs ∧ t.cfg = s.cfg ∧ t.granularity = s.granularity ∧
    t.primResult = s.primResult

theorem State.SameSetting.refl (s : State) : s.SameSetting s := ⟨rfl, rfl, rfl, rfl, rfl⟩

theorem State.SameSetting.trans {s t u : State} (h : s.SameSetting t) (h' : t.SameSetting u) : s.SameSetting u :=
  ⟨h'.1.trans h.1, h'.2.1.trans h.2.1, h'.2.2.1.trans h.2.2.1, h'.2.2.2.1.trans h.2.2.2.1, h'.2.2.2.2.trans h.2.2.2.2⟩

theorem pass_setting (items : List Item) (r : Run) : s.SameSetting (s.pass items r) := by
  induction items generalizing s r with
  | nil => exact .refl s
  | cons item rest ih =>
    cases item with
    | setPhase p => exact ih (s.setPhase p) r.pop
    | setBacklight v => exact ih (s.setBacklight v) r.pop
    | setRegisterSelect v => exact ih (s.setRegisterSelect v) r.pop
    | _ => exact .refl s

theorem goOn_setting (r : Run) : s.SameSetting (s.goOn r) := by
  unfold State.goOn
  split
  · exact pass_setting s r.todo r
  · exact .refl s

theorem emit_setting (r : Run) : s.SameSetting (s.emit r).1 := by
  unfold State.emit
  split
  · split
    · exact .refl s
    · rename_i item _ _
      cases item with
      | bus =>
        simp only [State.callItem]
        split <;> exact .refl s
      | _ => exact .refl s
  all_goals exact .refl s

theorem tick_setting : s.SameSetting s.tick := by
  unfold State.tick
  split
  · exact .refl s
  · exact (emit_setting s _).trans (goOn_setting _ _)

/-- Where going on leads (R28, R108): the list is over and the status is returned, or the sequencer stands at an event, at
the same item or a later one. -/
theorem pass_cases (items : List Item) (r : Run) (hf : r.framing = .idle) (ht : r.todo = items) :
    ((s.pass items r).seq = none ∧ (s.pass items r).statuses = s.statuses ++ [r.err]) ∨
      (s.pass items r).statuses = s.statuses ∧ ∃ q item rest, (s.pass items r).seq = some q ∧ q.op = r.op ∧
        r.item ≤ q.item ∧ q.err = r.err ∧ q.todo = item :: rest ∧
        (q.framing = .idle ∧ item.calls = true ∨ q.framing = .tx .high 0 ∧ item.sendsByte = true) := by
  induction items generalizing s r with
  | nil => exact .inl ⟨rfl, rfl⟩
  | cons item rest ih =>
    have skip : ∀ u : State, u.statuses = s.statuses →
        ((u.pass rest r.pop).seq = none ∧ (u.pass rest r.pop).statuses = s.statuses ++ [r.err]) ∨
          (u.pass rest r.pop).statuses = s.statuses ∧ ∃ q item' rest', (u.pass rest r.pop).seq = some q ∧ q.op = r.op ∧
            r.item ≤ q.item ∧ q.err = r.err ∧ q.todo = item' :: rest' ∧
            (q.framing = .idle ∧ item'.calls = true ∨ q.framing = .tx .high 0 ∧ item'.sendsByte = true) := by
      intro u hu
      rw [← hu]
      refine (ih u r.pop hf (by simp [Run.pop, ht])).imp id ?_
      rintro ⟨h, q, item', rest', h1, h2, h3, h4, h5⟩
      exact ⟨h, q, item', rest', h1, h2, Nat.le_of_succ_le h3, h4, h5⟩
    cases item with
    | setPhase p => exact skip (s.setPhase p) rfl
    | setBacklight v => exact skip (s.setBacklight v) rfl
    | setRegisterSelect v => exact skip (s.setRegisterSelect v) rfl
    | cbyte b => exact .inr ⟨rfl, _, _, _, rfl, rfl, Nat.le_refl _, rfl, ht, .inr ⟨rfl, rfl⟩⟩
    | gbyte c => exact .inr ⟨rfl, _, _, _, rfl, rfl, Nat.le_refl _, rfl, ht, .inr ⟨rfl, rfl⟩⟩
    | _ => exact .inr ⟨rfl, _, _, _, rfl, rfl, Nat.le_refl _, rfl, ht, .inl ⟨hf, rfl⟩⟩

/-! ## The event of a step -/

theorem tick_call {r : Run} {item : Item} {rest : List Item} (h : s.seq = some r) (hf : r.framing = .idle)
    (ht : r.todo = item :: rest) : s.tick = (s.callItem r item).1.goOn (s.callItem r item).2 := by
  rw [tick_busy s h]
  unfold State.tickRun State.emit
  rw [hf]
  dsimp only
  rw [ht]

theorem tick_tx {r : Run} {nib : Half} {k : Fin 3} (h : s.seq = some r) (hf : r.framing = .tx nib k) :
    s.tick = (s.setBus (s.bus.callWrite (r.frame k)).2).setSeq
      (some { r with
        framing := .wt nib k
        fail := decide ((s.bus.callWrite (r.frame k)).1 ≠ 0)
        timer := some s.cfg.tSettle }) := by
  rw [tick_busy s h]
  unfold State.tickRun State.emit
  rw [hf]
  exact goOn_sending _ (by simp)

theorem tick_wt {r : Run} {nib : Half} {k : Fin 3} (h : s.seq = some r) (hf : r.framing = .wt nib k) :
    s.tick = (s.setBus (s.bus.wait s.cfg.tSettle)).goOn
      (r.afterWait s.cfg (s.baseFrame (lowNibble r.cur)) nib k) := by
  rw [tick_busy s h]
  unfold State.tickRun State.emit
  rw [hf]

theorem tick_cw {r : Run} (h : s.seq = some r) (hf : r.framing = .cw) :
    s.tick = (s.setBus (s.bus.wait s.cfg.tCmd)).goOn (r.byteDone s.cfg.errPolicy) := by
  rw [tick_busy s h]
  unfold State.tickRun State.emit
  rw [hf]

/-! ## One frame -/

/-- Where the last settling delay of a byte leads does not depend on the framing state it ends. -/
theorem settled_from (cfg : Config) (r : Run) (framing : Framing) (timer : Option Micros) :
    ({ r with framing := framing, timer := timer } : Run).settled cfg = r.settled cfg := by
  unfold Run.settled
  split <;> rfl

/-- A frame and its settling delay: two small steps, one write. -/
theorem sends_frame {r : Run} {nib : Half} {k : Fin 3} (h : s.seq = some r) (hf : r.framing = .tx nib k) :
    s.Sends 2 ((s.setBus (s.bus.after 1 [.tx (r.frame k) (s.bus.writeAnswer 0), .wait s.cfg.tSettle])).goOn
      (({ r with
        framing := .wt nib k
        fail := decide (s.bus.writeAnswer 0 ≠ 0)
        timer := some s.cfg.tSettle } : Run).afterWait s.cfg (s.baseFrame (lowNibble r.cur)) nib k)) := by
  have h1 := tick_tx s h hf
  refine ⟨?_, fun m hm hm' => ?_⟩
  · rw [ticks_succ, ticks_one, h1, tick_wt (nib := nib) (k := k) _ rfl rfl]
    have : (s.bus.callWrite (r.frame k)).2.wait s.cfg.tSettle =
        s.bus.after 1 [.tx (r.frame k) (s.bus.writeAnswer 0), .wait s.cfg.tSettle] := by
      simp [Bus.callWrite, Bus.wait, Bus.log, Bus.after, List.append_assoc]
    rw [← this]
    exact setSeq_goOn ((s.setBus _).setBus _) _ _
  · obtain rfl : m = 1 := by omega
    rw [ticks_one, h1]
    exact ⟨_, rfl, by simp⟩

/-- An accepted frame that is not the last of its nibble. -/
theorem sends_accepted {r : Run} {nib : Half} {k : Fin 3} (h : s.seq = some r) (hf : r.framing = .tx nib k)
    (hk : k < 2) (ha : s.bus.writeAnswer 0 = 0) :
    s.Sends 2 ((s.setBus (s.bus.after 1 [.tx (r.frame k) 0, .wait s.cfg.tSettle])).setSeq
      (some { r with framing := .tx nib (k + 1), fail := false, timer := none })) := by
  have := sends_frame s h hf
  rw [← goOn_sending _ (by simp)]
  simpa [ha, Run.afterWait, hk] using this

/-- A failed frame is the last of its byte (R104). -/
theorem sends_failed {r : Run} {nib : Half} {k : Fin 3} (h : s.seq = some r) (hf : r.framing = .tx nib k)
    (ha : s.bus.writeAnswer 0 ≠ 0) :
    s.Sends 2 ((s.setBus (s.bus.after 1 [.tx (r.frame k) (s.bus.writeAnswer 0), .wait s.cfg.tSettle])).goOn
      (({ r with fail := true } : Run).settled s.cfg)) := by
  have := sends_frame s h hf
  rw [← settled_from s.cfg { r with fail := true } (.wt nib k) (some s.cfg.tSettle)]
  simpa [ha, Run.afterWait] using this

/-! ## One enable pulse -/

/-- Where an enable pulse leads: to the low nibble, or past the byte. -/
def Run.afterPulse (cfg : Config) (low : Byte) (nib : Half) (ok : Bool) (r : Run) : Run :=
  if ok then
    match nib with
    | .high => { r with framing := .tx .low 0, f := low, fail := false, timer := none }
    | .low => ({ r with fail := false } : Run).settled cfg
  else ({ r with fail := true } : Run).settled cfg

theorem afterPulse_high (cfg : Config) (low : Byte) (r : Run) :
    r.afterPulse cfg low .high true = { r with framing := .tx .low 0, f := low, fail := false, timer := none } := rfl

theorem afterPulse_low (cfg : Config) (low : Byte) (ok : Bool) (r : Run) :
    r.afterPulse cfg low .low ok = ({ r with fail := !ok } : Run).settled cfg := by
  cases ok <;> rfl

theorem afterPulse_failed (cfg : Config) (low : Byte) (nib : Half) (r : Run) :
    r.afterPulse cfg low nib false = ({ r with fail := true } : Run).settled cfg := rfl

/-- Where a pulse leads does not depend on the framing state it ends. -/
theorem afterPulse_from (cfg : Config) (low : Byte) (nib : Half) (ok : Bool) (r : Run) (framing : Framing) (fail : Bool)
    (timer : Option Micros) :
    ({ r with framing := framing, fail := fail, timer := timer } : Run).afterPulse cfg low nib ok =
      r.afterPulse cfg low nib ok := by
  cases ok
  · exact settled_from cfg { r with fail := true } framing timer
  · cases nib
    · rfl
    · exact settled_from cfg { r with fail := false } framing timer

/-- The last frame of a nibble, accepted. -/
theorem sends_last {r : Run} {nib : Half} (h : s.seq = some r) (hf : r.framing = .tx nib 2)
    (ha : s.bus.writeAnswer 0 = 0) :
    s.Sends 2 ((s.setBus (s.bus.after 1 [.tx (r.frame 2) 0, .wait s.cfg.tSettle])).goOn
      (r.afterPulse s.cfg (s.baseFrame (lowNibble r.cur)) nib true)) := by
  have := sends_frame s h hf
  cases nib
  · simpa [ha, Run.afterWait, Run.afterPulse] using this
  · rw [afterPulse_low, ← settled_from s.cfg _ (.wt .low 2) (some s.cfg.tSettle)]
    simpa [ha, Run.afterWait] using this

/-- An enable pulse taken step by step is the pulse of the pseudocode (R101, R102). -/
theorem sends_pulse {r : Run} {nib : Half} (h : s.seq = some r) (hf : r.framing = .tx nib 0) :
    ∃ n, 0 < n ∧ n ≤ 6 ∧ s.Sends n ((s.setBus (s.bus.pulse s.cfg.tSettle r.f).2).goOn
      (r.afterPulse s.cfg (s.baseFrame (lowNibble r.cur)) nib
        (decide ((s.bus.pulse s.cfg.tSettle r.f).1 = .ok)))) := by
  by_cases h0 : s.bus.writeAnswer 0 = 0
  · have e1 := sends_accepted s h hf (by decide) h0
    generalize hs1 : (s.setBus _).setSeq _ = s1 at e1
    have q1 : s1.sending := by rw [← hs1]; exact ⟨_, rfl, by simp⟩
    by_cases h1 : s.bus.writeAnswer 1 = 0
    · have e2 := sends_accepted s1 (by rw [← hs1]; rfl) rfl (by decide) (by rw [← hs1]; simpa using h1)
      generalize hs2 : (s1.setBus _).setSeq _ = s2 at e2
      have q2 : s2.sending := by rw [← hs2]; exact ⟨_, rfl, by simp⟩
      have acc2 : s.bus.accepts 2 := fun k hk => by
        rcases (by omega : k = 0 ∨ k = 1) with rfl | rfl <;> assumption
      by_cases h2 : s.bus.writeAnswer 2 = 0
      · have e3 := sends_last s2 (nib := nib) (by rw [← hs2]; rfl) rfl (by rw [← hs2, ← hs1]; simpa using h2)
        refine ⟨6, by omega, by omega, ?_⟩
        rw [pulse_accepted s.bus s.cfg.tSettle r.f fun k hk => by
          rcases (by omega : k < 2 ∨ k = 2) with hk | rfl
          · exact acc2 k hk
          · exact h2]
        have := e1.trans q1 (e2.trans q2 e3)
        rw [← hs2, ← hs1] at this
        rw [← afterPulse_from _ _ _ _ r (.tx nib 2) false none]
        simpa [acceptedFrames, nibbleFrames, Run.frame, enableHigh, maskEN] using this
      · have e3 := sends_failed s2 (nib := nib) (k := 2) (by rw [← hs2]; rfl) rfl
          (by rw [← hs2, ← hs1]; simpa using h2)
        refine ⟨6, by omega, by omega, ?_⟩
        rw [pulse_cut s.bus s.cfg.tSettle r.f (k := 2) (by omega) acc2 h2]
        have := e1.trans q1 (e2.trans q2 e3)
        rw [← hs2, ← hs1] at this
        rw [← afterPulse_from _ _ _ _ r (.tx nib 2) true none]
        simpa [afterPulse_failed, cutFrames, acceptedFrames, nibbleFrames, Run.frame, enableHigh, maskEN] using this
    · have e2 := sends_failed s1 (nib := nib) (k := 1) (by rw [← hs1]; rfl) rfl (by rw [← hs1]; simpa using h1)
      refine ⟨4, by omega, by omega, ?_⟩
      rw [pulse_cut s.bus s.cfg.tSettle r.f (k := 1) (by omega)
        (fun k hk => by obtain rfl : k = 0 := by omega
                        exact h0) h1]
      have := e1.trans q1 e2
      rw [← hs1] at this
      rw [← afterPulse_from _ _ _ _ r (.tx nib 1) true none]
      simpa [afterPulse_failed, cutFrames, acceptedFrames, nibbleFrames, Run.frame, enableHigh, maskEN] using this
  · have e1 := sends_failed s h hf h0
    refine ⟨2, by omega, by omega, ?_⟩
    rw [pulse_cut s.bus s.cfg.tSettle r.f (k := 0) (by omega) (fun k hk => by omega) h0]
    exact e1

/-! ## One byte -/

/-- A byte taken step by step from its first frame is the byte of the pseudocode (R103, R104, R109). -/
theorem sends_byte {r : Run} (h : s.seq = some r) (hf : r.framing = .tx .high 0)
    (hb : r.f = s.baseFrame (highNibble r.cur)) :
    ∃ n f, 0 < n ∧ n ≤ 12 ∧ s.Sends n ((s.writeByte r.cur).2.goOn
      (({ r with f := f, fail := decide ((s.writeByte r.cur).1 ≠ .ok) } : Run).settled s.cfg)) := by
  obtain ⟨n, hn, hn6, e⟩ := sends_pulse s h hf
  rw [hb] at e
  have hwb := writeByte_bus s r.cur
  generalize s.bus.pulse s.cfg.tSettle (s.baseFrame (highNibble r.cur)) = p at e hwb
  obtain ⟨st, bus⟩ := p
  simp only at e
  by_cases hok : st = .ok
  · subst hok
    rw [show decide (Status.ok = Status.ok) = true from rfl, afterPulse_high, goOn_sending _ (by simp)] at e
    rw [andThen_ok] at hwb
    generalize ht : (s.setBus bus).setSeq _ = t at e
    obtain ⟨n', _, hn6', e'⟩ := sends_pulse t (nib := .low) (by rw [← ht]; rfl) rfl
    refine ⟨n + n', s.baseFrame (lowNibble r.cur), by omega, by omega, ?_⟩
    have := e.trans (by rw [← ht]; exact ⟨_, rfl, by simp⟩) e'
    rw [hwb, ← settled_from s.cfg { r with f := s.baseFrame (lowNibble r.cur), fail := _ } (.tx .low 0) none]
    rw [afterPulse_low, ← ht, setSeq_setBus, setSeq_goOn] at this
    simp only [ne_eq, decide_not]
    exact this
  · rw [decide_eq_false hok, afterPulse_failed] at e
    rw [andThen_failed _ _ hok] at hwb
    refine ⟨n, r.f, hn, by omega, ?_⟩
    rw [hwb]
    simpa [hok] using e

end Sys2Proof.Machine
end

