-- ==== Sys2Proof/Laws/Trace.lean ====
section
/-! SUPPORT. How the readings of a trace go over appending (00_scope.md R13), and that the events of sent frames are paced
and write frames only (30_encoding.md R63; 70_reset_and_hazards.md R185). -/

namespace Sys2Proof.Machine

@[simp] theorem txFrames_append (a b : List Event) : txFrames (a ++ b) = txFrames a ++ txFrames b := by
  simp [txFrames]

@[simp] theorem txStatuses_append (a b : List Event) : txStatuses (a ++ b) = txStatuses a ++ txStatuses b := by
  simp [txStatuses]

@[simp] theorem totalWait_append (a b : List Event) : totalWait (a ++ b) = totalWait a + totalWait b := by
  induction a with
  | nil => simp [totalWait]
  | cons e rest ih => cases e <;> simp [totalWait, ih, Nat.add_assoc]

/-- A paced trace followed by anything is as paced as what follows. -/
theorem paced_append (d : Micros) (a b : List Event) : paced d a = true → paced d (a ++ b) = paced d b := by
  induction a using paced.induct with
  | case1 => intro _; rfl
  | case2 f st w rest ih =>
    intro h
    simp only [List.cons_append, paced, Bool.and_eq_true, decide_eq_true_eq] at h ⊢
    rw [ih h.2]
    simp [h.1]
  | case3 => intro h; simp [paced] at h
  | case4 _ _ ih => exact ih
  | case5 _ _ ih => exact ih
  | case6 _ _ ih => exact ih
  | case7 _ ih => exact ih

theorem noReadFrame_append (a b : List Event) : noReadFrame (a ++ b) ↔ noReadFrame a ∧ noReadFrame b := by
  simp [noReadFrame, or_imp, forall_and]

/-! ## Frames that were sent -/

theorem txFrames_acceptedFrames (settle : Micros) (fs : List Byte) : txFrames (acceptedFrames settle fs) = fs := by
  induction fs with
  | nil => rfl
  | cons f rest ih =>
    show f :: txFrames (acceptedFrames settle rest) = _
    rw [ih]

theorem txStatuses_acceptedFrames (settle : Micros) (fs : List Byte) :
    txStatuses (acceptedFrames settle fs) = fs.map fun _ => 0 := by
  induction fs with
  | nil => rfl
  | cons f rest ih =>
    show 0 :: txStatuses (acceptedFrames settle rest) = _
    rw [ih]
    rfl

theorem totalWait_acceptedFrames (settle : Micros) (fs : List Byte) :
    totalWait (acceptedFrames settle fs) = settle * fs.length := by
  induction fs with
  | nil => rfl
  | cons f rest ih =>
    show settle + totalWait (acceptedFrames settle rest) = _
    rw [ih, List.length_cons, Nat.mul_succ, Nat.add_comm]

theorem paced_acceptedFrames (settle : Micros) (fs : List Byte) : paced settle (acceptedFrames settle fs) = true := by
  induction fs with
  | nil => rfl
  | cons f rest ih =>
    show (decide (settle ≤ settle) && paced settle (acceptedFrames settle rest)) = true
    simp [ih]

/-- The failed frame is among the frames of a cut trace, with the status it failed with (R102). -/
theorem mem_txStatuses_cutFrames (settle : Micros) (fs : List Byte) (k : Nat) (st : Int) (hk : k < fs.length) :
    st ∈ txStatuses (cutFrames settle fs k st) := by
  simp [cutFrames, txStatuses, hk]

/-- The frames of a cut trace are among the frames there were to send (R102). -/
theorem txFrames_cutFrames (settle : Micros) (fs : List Byte) (k : Nat) (st : Int) :
    txFrames (cutFrames settle fs k st) = fs.take k ++ fs[k]?.toList := by
  rw [cutFrames, txFrames_append, txFrames_acceptedFrames]
  cases fs[k]? <;> rfl

/-! ## No frame has its read/write bit set -/

theorem baseFrame_write_bit (s : State) (n : Byte) (h : s.readWrite = .write) : (s.baseFrame n).getLsbD 1 = false := by
  rw [State.baseFrame, h]
  cases s.backlightOn <;> cases s.registerSelect <;> revert n <;> decide

theorem enable_write_bit (f : Byte) (h : f.getLsbD 1 = false) : (f ||| 0x04).getLsbD 1 = false := by
  revert f
  decide

/-- Every frame of a byte has its read/write bit 0 (R63). -/
theorem byteFrames_write_bit (s : State) (h : s.readWrite = .write) (code : Byte) :
    ∀ f ∈ byteFrames s.baseFrame code, f.getLsbD 1 = false := by
  have nibble : ∀ n, ∀ f ∈ nibbleFrames (s.baseFrame n), f.getLsbD 1 = false := by
    intro n f hf
    have hb := baseFrame_write_bit s n h
    simp only [nibbleFrames, List.mem_cons, List.not_mem_nil, or_false] at hf
    rcases hf with hf | hf | hf <;> rw [hf]
    · exact hb
    · exact enable_write_bit _ hb
    · exact hb
  intro f hf
  rcases List.mem_append.mp hf with hf | hf <;> exact nibble _ f hf

end Sys2Proof.Machine
end

