-- ==== Sys2Proof/Tests/Slice0.lean ====
section
/-! SUPPORT. The model's own tests.  Expected values are transcribed from the vectors of 95_test_vectors.md (the id stands
in the docstring) or worked out by hand from the encodings of 30_encoding.md; and, for every statement with hypotheses, a
concrete state and operands that meet them. -/

namespace Sys2Proof.Machine.Tests

/-- The vectors' parameters: the defaults, the text `OK` and a policy (95_test_vectors.md, conventions). -/
def cfgOf (policy : ErrPolicy) : Config := Config.standard [0x4F, 0x4B] policy

/-- A state of a vector, with the answers its oracle gives. -/
def start (p : Phase) (bl : Bool) (rs : RegisterSelect) (policy : ErrPolicy) (begins : List Bool) (writes : List Int) :
    State where
  phase := p
  backlightOn := bl
  registerSelect := rs
  readWrite := .write
  seq := none
  bus := { trace := [], begins := begins, beginCalls := 0, writes := writes, writeCalls := 0 }
  statuses := []
  primResult := none
  inputs := []
  cfg := cfgOf policy
  granularity := .transaction

/-- `n` writes accepted, then one that fails, then `m` accepted. -/
def failsAt (n m : Nat) : List Int := List.replicate n 0 ++ [-1] ++ List.replicate m 0

/-- `(Ready, true, Character, Write)` with write answers. -/
def ready (writes : List Int) : State := start .ready true .character .abort [] writes

/-- The reset state of a vector. -/
def fresh (begins : List Bool) (writes : List Int) : State := start .uninitialized false .command .abort begins writes

/-- The state after an outcome. -/
def after : Host.Outcome State Fault Refusal → Option State
  | .next s => some s
  | .fault _ => none
  | .refused _ => none

/-- The trace after an outcome, in the vectors' full form. -/
def trace (o : Host.Outcome State Fault Refusal) : Option (List Event) := (after o).map fun s => s.bus.trace

/-- The fields, the frames, the waits and the statuses after an outcome, as the vectors' tables have them. -/
def row (o : Host.Outcome State Fault Refusal) : Option (Bits × List Byte × Micros × List Status) :=
  (after o).map fun s => (s.bits, txFrames s.bus.trace, totalWait s.bus.trace, s.statuses)

/-- The primitive's result after an outcome. -/
def result (o : Host.Outcome State Fault Refusal) : Option PrimResult := (after o).bind fun s => s.primResult

/-- Frames that were accepted, with their waits. -/
def sent (fs : List Byte) : List Event := fs.flatMap fun f => [.tx f 0, .wait 1500]

/-! ## Well-formedness: an ill-formed term for each check, refused by the check and by the decoder -/

/-- 30_encoding.md R75: `0x7E` is no glyph byte. -/
theorem smoke_glyph_above :
    (Instr.glyph 0x7E).wf = false ∧ (decode .glyph [0x7E]).toOption = none := by decide

/-- 30_encoding.md R75: `0x1F` is no glyph byte. -/
theorem smoke_glyph_below :
    (Instr.glyph 0x1F).wf = false ∧ (decode .glyph [0x1F]).toOption = none := by decide

/-- 30_encoding.md R73: address `0x10` is in neither row. -/
theorem smoke_setddram :
    (Instr.lcdSetddram 0x10).wf = false ∧ (decode .command [0x90]).toOption = none := by decide

/-! ## Words written out bit by bit from the encodings, one per constructor -/

/-- R65: `op = 000`. -/
theorem test_decode_init :
    (decode .host [0b00000000, 0b00000000]).toOption = some (.init 0) := by decide

/-- R65, R68: `op = 001`, then the text. -/
theorem test_decode_msg :
    (decode .host [0b00000000, 0b00000001, 0b01001000, 0b01001001]).toOption = some (.msg 0 [0x48, 0x49]) := by decide

/-- R65: `op = 010`, vector X8's word `0x2FF`. -/
theorem test_decode_clear :
    (decode .host [0b11111111, 0b00000010]).toOption = some (.clear 0xFF) := by decide

/-- R65: `op = 011`. -/
theorem test_decode_home :
    (decode .host [0b00000000, 0b00000011]).toOption = some (.home 0) := by decide

/-- R65, R66: `op = 100`, vector X3's word `0x420`. -/
theorem test_decode_goto :
    (decode .host [0b00100000, 0b00000100]).toOption = some (.goto 32) := by decide

/-- R65: `op = 101`. -/
theorem test_decode_teardown :
    (decode .host [0b00000000, 0b00000101]).toOption = some (.teardown 0) := by decide

/-- R65, R69: `op = 110`, vector X6's word `0x6AB`. -/
theorem test_decode_reserved6 :
    (decode .host [0b10101011, 0b00000110]).toOption = some (.reserved6 0xAB) := by decide

/-- R65, R69: `op = 111`, vector X6's word `0x7FF`. -/
theorem test_decode_reserved7 :
    (decode .host [0b11111111, 0b00000111]).toOption = some (.reserved7 0xFF) := by decide

/-- R64: a word has 11 bits. -/
theorem test_decode_host_too_wide :
    (decode .host [0b00000000, 0b00001000]).toOption = none := by decide

/-- R61: nibble `1010`, BL 0, EN 0, RW 0, RS 1. -/
theorem test_decode_frame_en_low :
    (decode .frame [0b10100001]).toOption = some (.frameEnLow 0xA false true) := by decide

/-- R61: nibble `0100`, BL 1, EN 1, RW 0, RS 0. -/
theorem test_decode_frame_en_high :
    (decode .frame [0b01001100]).toOption = some (.frameEnHigh 0x4 true false) := by decide

/-- R61, R63: nibble `1100`, BL 0, EN 1, RW 1, RS 1. -/
theorem test_decode_frame_rw_set :
    (decode .frame [0b11000111]).toOption = some (.frameRwSet 0xC false true true) := by decide

/-- R71. -/
theorem test_decode_lcd_fourbit :
    (decode .entryCommand [0b00000010]).toOption = some (.lcdFourbit) := by decide

/-- R71. -/
theorem test_decode_lcd_funcset :
    (decode .command [0b00101000]).toOption = some (.lcdFuncset) := by decide

/-- R71. -/
theorem test_decode_lcd_dispoff :
    (decode .command [0b00001000]).toOption = some (.lcdDispoff) := by decide

/-- R71. -/
theorem test_decode_lcd_clear :
    (decode .command [0b00000001]).toOption = some (.lcdClear) := by decide

/-- R71. -/
theorem test_decode_lcd_entry :
    (decode .command [0b00000110]).toOption = some (.lcdEntry) := by decide

/-- R71. -/
theorem test_decode_lcd_dispon :
    (decode .command [0b00001100]).toOption = some (.lcdDispon) := by decide

/-- R71. -/
theorem test_decode_lcd_home :
    (decode .command [0b00000010]).toOption = some (.lcdHome) := by decide

/-- R73: `1 aaaaaaa`, the byte of vector C6. -/
theorem test_decode_lcd_setddram :
    (decode .command [0b11001111]).toOption = some (.lcdSetddram 0x4F) := by decide

/-- R75. -/
theorem test_decode_glyph :
    (decode .glyph [0b00111111]).toOption = some (.glyph 0x3F) := by decide

/-- 00_scope.md R14: the internal primitives have no encoding. -/
theorem test_encode_internal_none :
    encode (.encode 0x41) = none ∧ encode (.writeNibble 4) = none ∧ encode (.writeByte 0x41) = none ∧
      encode (.cmdByte 1) = none := by decide

/-- The opcode table's numbering of a host word. -/
theorem test_table_word_host :
    decodeTableWord 16 0x420 = some (.goto 32) ∧ decodeTableWord 11 0x600 = some (.reserved6 0) := by decide

/-- The opcode table's numbering of a byte. -/
theorem test_table_word_byte :
    decodeTableWord 8 0x80 = some (.lcdSetddram 0) ∧ decodeTableWord 8 0x4D = some (.frameEnHigh 4 true true) := by decide

/-- The next step takes up the word's instruction. -/
theorem test_fetch_word_host :
    (State.reset.withFetchWord 16 0x420).fetch = .command (.goto 32) [] := by decide

/-- The next step takes up the byte's instruction. -/
theorem test_fetch_word_byte :
    (State.reset.withFetchWord 8 0x28).fetch = .inner .lcdFuncset [] := by decide

/-- Vector X1: CLEAR after reset. -/
theorem test_step_from_reset :
    (after (step (State.reset.withFetchWord 16 0x200))).map (fun s => s.statuses) = some [.errState] := by decide

/-! ## ENCODE -/

/-- Vectors E7 and E1. -/
theorem test_encode_ends :
    result (exec (.encode 0x7D) (ready [])) = some (.glyph 0x7D) ∧ result (exec (.encode 0x20) (ready [])) = some (.glyph 0x20) := by decide

/-- Vectors E8 and E11. -/
theorem test_encode_outside :
    result (exec (.encode 0x7E) (ready [])) = some (.glyph 0x3F) ∧ result (exec (.encode 0x00) (ready [])) = some (.glyph 0x3F) := by decide

/-! ## The framing rows -/

/-- Vector F7's one frame, sent on its own. -/
theorem test_frame_en_low :
    trace (exec (.frameEnLow 0x4 true true) (ready [-1])) = some [.tx 0x49 (-1), .wait 1500] := by decide

/-- The middle frame of vector F1. -/
theorem test_frame_en_high :
    trace (exec (.frameEnHigh 0x4 true true) (ready [0])) = some [.tx 0x4D 0, .wait 1500] := by decide

/-- R63: never emitted. -/
theorem test_frame_rw_set :
    after (exec (.frameRwSet 0x4 true false true) (ready [0])) = none := by decide

/-- Vector F6: only bits 3:0 of the operand count. -/
theorem test_write_nibble :
    trace (exec (.writeNibble 0x34) (ready [0, 0, 0])) = some (sent [0x49, 0x4D, 0x49]) := by decide

/-- Vector F8. -/
theorem test_write_nibble_cut :
    trace (exec (.writeNibble 0x4) (ready [0, -1])) = some (sent [0x49] ++ [.tx 0x4D (-1), .wait 1500]) ∧
      result (exec (.writeNibble 0x4) (ready [0, -1])) = some (.status .errIo) := by decide

/-- Vector B1. -/
theorem test_write_byte :
    trace (exec (.writeByte 0x48) (ready (List.replicate 6 0))) = some (sent [0x49, 0x4D, 0x49, 0x89, 0x8D, 0x89]) := by decide

/-- Vector B4. -/
theorem test_write_byte_cut :
    trace (exec (.writeByte 0x48) (ready (failsAt 3 2))) =
      some (sent [0x49, 0x4D, 0x49] ++ [.tx 0x89 (-1), .wait 1500]) := by decide

/-- Vector B8. -/
theorem test_cmd_byte :
    trace (exec (.cmdByte 0x28) (start .busReady false .command .abort [] (List.replicate 6 0))) =
      some (sent [0x20, 0x24, 0x20, 0x80, 0x84, 0x80] ++ [.wait 1500]) := by decide

/-- Vector B7. -/
theorem test_cmd_byte_cut :
    trace (exec (.cmdByte 0x01) (start .ready true .command .abort [] [0, -1])) =
      some (sent [0x08] ++ [.tx 0x0C (-1), .wait 1500, .wait 1500]) := by decide

/-! ## The command bytes and the glyph byte, at the control bits of INIT -/

/-- Vector I1, its first byte. -/
theorem test_lcd_fourbit :
    trace (exec .lcdFourbit (start .busReady false .command .abort [] (List.replicate 6 0))) =
      some (sent [0x00, 0x04, 0x00, 0x20, 0x24, 0x20] ++ [.wait 1500]) := by decide

/-- Vector B8. -/
theorem test_lcd_funcset :
    trace (exec .lcdFuncset (start .busReady false .command .abort [] (List.replicate 6 0))) =
      some (sent [0x20, 0x24, 0x20, 0x80, 0x84, 0x80] ++ [.wait 1500]) := by decide

/-- Vector I1, its third byte. -/
theorem test_lcd_dispoff :
    trace (exec .lcdDispoff (start .busReady false .command .abort [] (List.replicate 6 0))) =
      some (sent [0x00, 0x04, 0x00, 0x80, 0x84, 0x80] ++ [.wait 1500]) := by decide

/-- Vector B6. -/
theorem test_lcd_clear :
    trace (exec .lcdClear (start .ready true .command .abort [] (List.replicate 6 0))) =
      some (sent [0x08, 0x0C, 0x08, 0x18, 0x1C, 0x18] ++ [.wait 1500]) := by decide

/-- Vector I1, its fifth byte. -/
theorem test_lcd_entry :
    trace (exec .lcdEntry (start .busReady false .command .abort [] (List.replicate 6 0))) =
      some (sent [0x00, 0x04, 0x00, 0x60, 0x64, 0x60] ++ [.wait 1500]) := by decide

/-- Vector I1, its sixth byte. -/
theorem test_lcd_dispon :
    trace (exec .lcdDispon (start .busReady false .command .abort [] (List.replicate 6 0))) =
      some (sent [0x00, 0x04, 0x00, 0xC0, 0xC4, 0xC0] ++ [.wait 1500]) := by decide

/-- Vector C2. -/
theorem test_lcd_home :
    trace (exec .lcdHome (start .ready true .command .abort [] (List.replicate 6 0))) =
      some (sent [0x08, 0x0C, 0x08, 0x28, 0x2C, 0x28] ++ [.wait 1500]) := by decide

/-- Vector C4. -/
theorem test_lcd_setddram :
    trace (exec (.lcdSetddram 0x0F) (start .ready true .command .abort [] (List.replicate 6 0))) =
      some (sent [0x88, 0x8C, 0x88, 0xF8, 0xFC, 0xF8] ++ [.wait 1500]) := by decide

/-- Vector B2. -/
theorem test_glyph :
    trace (exec (.glyph 0x3F) (ready (List.replicate 6 0))) = some (sent [0x39, 0x3D, 0x39, 0xF9, 0xFD, 0xF9]) := by decide

/-! ## INIT and TEARDOWN -/

/-- Vector I1. -/
theorem test_init :
    row (exec (.init 0) (fresh [true] (List.replicate 48 0))) = some ((.ready, true, .character),
      [0x00, 0x04, 0x00, 0x20, 0x24, 0x20, 0x20, 0x24, 0x20, 0x80, 0x84, 0x80, 0x00, 0x04, 0x00, 0x80, 0x84, 0x80,
      0x00, 0x04, 0x00, 0x10, 0x14, 0x10, 0x00, 0x04, 0x00, 0x60, 0x64, 0x60, 0x00, 0x04, 0x00, 0xC0, 0xC4, 0xC0,
      0x49, 0x4D, 0x49, 0xF9, 0xFD, 0xF9, 0x49, 0x4D, 0x49, 0xB9, 0xBD, 0xB9], 81000, [.ok]) := by decide +kernel

/-- Vector I4. -/
theorem test_init_fails_on :
    row (exec (.init 0) (fresh [true] (failsAt 1 42))) = some ((.ready, true, .character),
      [0x00, 0x04, 0x20, 0x24, 0x20, 0x80, 0x84, 0x80, 0x00, 0x04, 0x00, 0x80, 0x84, 0x80, 0x00, 0x04, 0x00, 0x10,
      0x14, 0x10, 0x00, 0x04, 0x00, 0x60, 0x64, 0x60, 0x00, 0x04, 0x00, 0xC0, 0xC4, 0xC0, 0x49, 0x4D, 0x49, 0xF9,
      0xFD, 0xF9, 0x49, 0x4D, 0x49, 0xB9, 0xBD, 0xB9], 75000, [.errIo]) := by decide +kernel

/-- Vector I2. -/
theorem test_init_no_transport :
    (after (exec (.init 0) (fresh [false] []))).map (fun s => (s.bits, s.bus.trace, s.statuses)) =
      some ((.failed, false, .command), [.began false], [.errInit]) := by decide

/-- Vector I1, its first events. -/
theorem test_init_begins :
    ((trace (exec (.init 0) (fresh [true] (List.replicate 48 0)))).map fun evs => evs.take 4) =
      some [.began true, .setAddr 0x27, .tx 0x00 0, .wait 1500] := by decide +kernel

/-- Vector I10. -/
theorem test_teardown :
    (after (exec (.teardown 0) (ready []))).map (fun s => (s.bits, s.bus.trace, s.statuses)) =
      some ((.uninitialized, false, .command), [.ended], [.ok]) := by decide

/-- Vector I11. -/
theorem test_teardown_refused :
    row (exec (.teardown 0) (fresh [] [])) = some ((.uninitialized, false, .command), [], 0, [.errState]) := by decide

/-! ## MSG -/

/-- Vector M4. -/
theorem test_msg :
    row (exec (.msg 0 [0x41, 0x7E, 0x00, 0x5A]) (ready (List.replicate 12 0))) = some ((.ready, true, .character),
      [0x49, 0x4D, 0x49, 0x19, 0x1D, 0x19, 0x39, 0x3D, 0x39, 0xF9, 0xFD, 0xF9], 18000, [.ok]) := by decide

/-- Vectors M7d and M8d. -/
theorem test_msg_both_policies :
    row (exec (.msg 0 [0x48, 0x49]) (ready (failsAt 3 8))) = some ((.ready, true, .character), [0x49, 0x4D, 0x49, 0x89],
        6000, [.errIo]) ∧
      row (exec (.msg 0 [0x48, 0x49]) (start .ready true .character .continueOn [] (failsAt 3 8))) =
        some ((.ready, true, .character), [0x49, 0x4D, 0x49, 0x89, 0x49, 0x4D, 0x49, 0x99, 0x9D, 0x99], 15000, [.errIo]) := by
  constructor <;> decide

/-! ## CLEAR, HOME, GOTO and the refusals -/

/-- Vectors C1 and X8. -/
theorem test_clear :
    row (exec (.clear 0xFF) (ready (List.replicate 6 0))) =
      some ((.ready, true, .command), [0x08, 0x0C, 0x08, 0x18, 0x1C, 0x18], 10500, [.ok]) := by decide

/-- Vector C8. -/
theorem test_clear_cut :
    row (exec (.clear 0) (ready [0, -1])) = some ((.ready, true, .command), [0x08, 0x0C], 4500, [.errIo]) := by decide

/-- Vector C2. -/
theorem test_home :
    row (exec (.home 0) (ready (List.replicate 6 0))) =
      some ((.ready, true, .command), [0x08, 0x0C, 0x08, 0x28, 0x2C, 0x28], 10500, [.ok]) := by decide

/-- Vectors C4 and C6. -/
theorem test_goto_rows :
    row (exec (.goto 15) (ready (List.replicate 6 0))) =
        some ((.ready, true, .command), [0x88, 0x8C, 0x88, 0xF8, 0xFC, 0xF8], 10500, [.ok]) ∧
      row (exec (.goto 31) (ready (List.replicate 6 0))) =
        some ((.ready, true, .command), [0xC8, 0xCC, 0xC8, 0xF8, 0xFC, 0xF8], 10500, [.ok]) := by
  constructor <;> decide

/-- Vectors X3 and X2. -/
theorem test_goto_refused :
    row (exec (.goto 32) (ready [])) = some ((.ready, true, .character), [], 0, [.errRange]) ∧
      row (exec (.goto 200) (fresh [] [])) = some ((.uninitialized, false, .command), [], 0, [.errState]) := by
  constructor <;> decide

/-- Vector X6. -/
theorem test_reserved6 :
    row (exec (.reserved6 0xAB) (ready [])) = some ((.ready, true, .character), [], 0, [.errIllegal]) := by decide

/-- Vector X6, in `Failed`. -/
theorem test_reserved7 :
    row (exec (.reserved7 0xFF) (start .failed false .command .abort [] [])) =
      some ((.failed, false, .command), [], 0, [.errIllegal]) := by decide

/-! ## The sequencer -/

/-- Vector C8 taken event by event: two frames with their delays and the command's delay are its five steps. -/
theorem test_event_run :
    ((ready [0, -1]).accept (.clear 0)).ticks 5 = (after (exec (.clear 0) (ready [0, -1]))).getD (ready []) := by decide

/-- R28: past the last frame of a command byte comes its own delay, at the same item, and then the end of the list. -/
theorem test_command_wait_position :
    let s := (ready (List.replicate 6 0)).accept (.clear 0)
    s.position = some ⟨.clear 0, 1, .frame .high 0 .tx⟩ ∧ (s.ticks 11).position = some ⟨.clear 0, 1, .frame .low 2 .wait⟩ ∧
      (s.ticks 12).position = some ⟨.clear 0, 1, .commandWait⟩ ∧ (s.ticks 13).position = none := by decide

/-- R125: `BusReady` holds from right after `Begin->true`, and the next event is `SetAddr`. -/
theorem test_bus_ready_after_begin :
    let s := ((fresh [true] []).accept (.init 0)).ticks 1
    s.phase = .busReady ∧ s.bus.trace = [.began true] ∧ s.position = some ⟨.init 0, 1, .call⟩ ∧
      s.tick.bus.trace = [.began true, .setAddr 0x27] := by decide

/-! ## Witnesses: for each statement with hypotheses, a state and operands that meet all of them -/

/-- Accepting is decided by looking at the script. -/
theorem accepts_of_all {b : Bus} {n : Nat} (h : (List.range n).all (fun k => b.writeAnswer k = 0) = true) :
    b.accepts n := by
  intro k hk
  simpa using List.all_eq_true.mp h k (List.mem_range.mpr hk)

/-- An idle state in `Ready` meets the invariant. -/
theorem ready_inv (writes : List Int) : (ready writes).Inv :=
  ⟨rfl, (fun f hf => by cases hf), rfl, fun _ => rfl, (fun r h => by cases h)⟩

/-- CLEAR in progress in `Ready`, at its last item: the command byte waits for the settling delay of its first frame. -/
def clearing : State :=
  { start .ready true .command .abort [] [0] with
    bus := { trace := [.tx 0x08 0], begins := [], beginCalls := 0, writes := [0], writeCalls := 1 }
    seq := some
      { op := .clear 0, item := 1, todo := [.cbyte 0x01], err := .ok, framing := .wt .high 0, cur := 0x01, f := 0x08,
        fail := false, iscmd := true, timer := some 1500 } }

theorem clearing_inv : clearing.Inv := by
  refine ⟨rfl, ?_, by decide, fun h => (by cases h), fun r h => ?_⟩
  · intro f hf
    have : f = 0x08 := by simpa [clearing, txFrames] using hf
    subst this
    decide
  · cases h
    exact ⟨rfl, by decide, by decide, fun h => (by cases h), fun _ => ⟨_, rfl, rfl⟩, fun _ _ _ => by decide, rfl⟩

theorem witness_DecodeOfEncode :
    (Instr.goto 255).wf = true ∧ encode (.goto 255) = some ⟨.host, [0xFF, 0x04]⟩ ∧
      (Instr.lcdSetddram 0x4F).wf = true ∧ encode (.lcdSetddram 0x4F) = some ⟨.command, [0xCF]⟩ ∧
      (Instr.glyph 0x7D).wf = true ∧ encode (.glyph 0x7D) = some ⟨.glyph, [0x7D]⟩ := by decide

theorem witness_EncodeOfDecode :
    decode .host [0xFF, 0x04] = .ok (.goto 255) ∧ decode .frame [0xFF] = .ok (.frameRwSet 0xF true true true) := ⟨rfl, rfl⟩

theorem witness_HostPortMatchesDecoder :
    (opField 0x100 = 1 ∨ ([0x41] : List Byte) = []) ∧ (opField 0x4FF = 1 ∨ ([] : List Byte) = []) := by decide

theorem witness_EncodeInRangeIsIdentity :
    (ready []).usesDefaults ∧ (0x20 : Byte) ≤ 0x20 ∧ (0x20 : Byte) ≤ 0x7D ∧ (0x7D : Byte) ≤ 0x7D :=
  ⟨rfl, by decide, by decide, by decide⟩

theorem witness_EncodeOutOfRangeIsFallback :
    (ready []).usesDefaults ∧ ((0x1F : Byte) < 0x20 ∨ (0x7D : Byte) < 0x1F) ∧
      ((0x7E : Byte) < 0x20 ∨ (0x7D : Byte) < 0x7E) := ⟨rfl, by decide, by decide⟩

theorem witness_WriteNibbleAccepted : (ready [0, 0, 0]).bus.accepts 3 := accepts_of_all (by decide)

theorem witness_WriteNibbleCutShort :
    (2 < 3 ∧ (ready (failsAt 2 0)).bus.accepts 2 ∧ (ready (failsAt 2 0)).bus.writeAnswer 2 ≠ 0) ∧
      0 < 3 ∧ (ready (failsAt 0 2)).bus.accepts 0 ∧ (ready (failsAt 0 2)).bus.writeAnswer 0 ≠ 0 :=
  ⟨⟨by decide, accepts_of_all (by decide), by decide⟩, by decide, accepts_of_all (by decide), by decide⟩

theorem witness_WriteByteAccepted : (ready (List.replicate 6 0)).bus.accepts 6 := accepts_of_all (by decide)

theorem witness_WriteByteCutShort :
    (5 < 6 ∧ (ready (failsAt 5 0)).bus.accepts 5 ∧ (ready (failsAt 5 0)).bus.writeAnswer 5 ≠ 0) ∧
      0 < 6 ∧ (ready (failsAt 0 5)).bus.accepts 0 ∧ (ready (failsAt 0 5)).bus.writeAnswer 0 ≠ 0 :=
  ⟨⟨by decide, accepts_of_all (by decide), by decide⟩, by decide, accepts_of_all (by decide), by decide⟩

/-- Both clauses, at the first and the last frame. -/
theorem witness_CmdByteWaitsAlways :
    (ready (List.replicate 6 0)).bus.accepts 6 ∧
      5 < 6 ∧ (ready (failsAt 5 0)).bus.accepts 5 ∧ (ready (failsAt 5 0)).bus.writeAnswer 5 ≠ 0 :=
  ⟨accepts_of_all (by decide), by decide, accepts_of_all (by decide), by decide⟩

/-- Every row with its code, at the last address of the second row, and both clauses. -/
theorem witness_CommandByteRowsSendTheirByte :
    (ready (List.replicate 6 0)).usesDefaults ∧ (ready (List.replicate 6 0)).bus.accepts 6 ∧
      ((ready (failsAt 5 0)).usesDefaults ∧ (ready (failsAt 5 0)).bus.accepts 5 ∧
        (ready (failsAt 5 0)).bus.writeAnswer 5 ≠ 0) ∧
      (∃ addr : Addr7, Instr.lcdSetddram 0x4F = .lcdSetddram addr ∧ (0xCF : Byte) = 0x80 + addr.setWidth 8) :=
  ⟨rfl, accepts_of_all (by decide), ⟨rfl, accepts_of_all (by decide), by decide⟩, 0x4F, rfl, by decide⟩

theorem witness_GlyphRowSendsItsByte :
    (ready (List.replicate 6 0)).bus.accepts 6 ∧
      5 < 6 ∧ (ready (failsAt 5 0)).bus.accepts 5 ∧ (ready (failsAt 5 0)).bus.writeAnswer 5 ≠ 0 :=
  ⟨accepts_of_all (by decide), by decide, accepts_of_all (by decide), by decide⟩

theorem witness_PrimitivesFrame :
    (Instr.encode 0x41).isHost = false ∧ ∀ n bl en rs, Instr.encode 0x41 ≠ .frameRwSet n bl en rs :=
  ⟨rfl, by simp⟩

theorem witness_InitSucceeds :
    (fresh [true] (List.replicate 48 0)).phase = .uninitialized ∧ (fresh [true] (List.replicate 48 0)).readWrite = .write ∧
      (fresh [true] (List.replicate 48 0)).bus.beginAnswer 0 = true ∧
      (fresh [true] (List.replicate 48 0)).bus.accepts
        (36 + 6 * (effectiveText (fresh [true] (List.replicate 48 0)).cfg.selftestText).length) :=
  ⟨rfl, rfl, rfl, accepts_of_all (by decide)⟩

theorem witness_InitTransportCannotStart :
    (fresh [false] []).phase = .uninitialized ∧ (fresh [false] []).bus.beginAnswer 0 = false := ⟨rfl, rfl⟩

theorem witness_InitAlwaysReachesReady :
    (fresh [true] [-1]).phase = .uninitialized ∧ (fresh [true] [-1]).bus.beginAnswer 0 = true := ⟨rfl, rfl⟩

/-- Both clauses. -/
theorem witness_TeardownReleases : (ready []).phase = .ready ∧ (fresh [] []).phase ≠ .ready := by decide

theorem witness_InitTeardownFrame : Instr.teardown 0 = .init 0 ∨ Instr.teardown 0 = .teardown 0 := .inr rfl

/-- Both clauses. -/
theorem witness_RefusedOutsideItsPhase :
    (ready []).phase ≠ .uninitialized ∧ (start .failed false .command .abort [] []).phase ≠ .ready := by decide

theorem witness_GotoOutOfRangeRefused :
    (ready []).usesDefaults ∧ (ready []).phase = .ready ∧ 31 < (32 : Byte).toNat ∧ 31 < (255 : Byte).toNat :=
  ⟨rfl, rfl, by decide, by decide⟩

/-- An admitted command and a refused one. -/
theorem witness_ExactlyOneStatus :
    (Instr.msg 0 [0x41]).isHost = true ∧ (fresh [] []).admission (.msg 0 [0x41]) = some .errState := ⟨rfl, rfl⟩

theorem witness_MsgAccepted :
    (ready (List.replicate 12 0)).phase = .ready ∧ (ready (List.replicate 12 0)).readWrite = .write ∧
      (ready (List.replicate 12 0)).bus.accepts (6 * (effectiveText [0x48, 0x49]).length) :=
  ⟨rfl, rfl, accepts_of_all (by decide)⟩

/-- The second character fails at its last frame. -/
theorem witness_MsgAbortStopsAtFailedByte :
    (ready (failsAt 11 0)).phase = .ready ∧ (ready (failsAt 11 0)).readWrite = .write ∧
      (ready (failsAt 11 0)).cfg.errPolicy = .abort ∧ (0x00 : Byte) ∉ ([0x48] : List Byte) ∧ (0x49 : Byte) ≠ 0x00 ∧
      5 < 6 ∧ (ready (failsAt 11 0)).bus.accepts (6 * ([0x48] : List Byte).length + 5) ∧
      (ready (failsAt 11 0)).bus.writeAnswer (6 * ([0x48] : List Byte).length + 5) ≠ 0 :=
  ⟨rfl, rfl, rfl, by decide, by decide, by decide, accepts_of_all (by decide), by decide⟩

theorem witness_MsgContinueGoesOn :
    (start .ready true .character .continueOn [] (failsAt 6 5)).phase = .ready ∧
      (start .ready true .character .continueOn [] (failsAt 6 5)).readWrite = .write ∧
      (start .ready true .character .continueOn [] (failsAt 6 5)).cfg.errPolicy = .continueOn ∧
      (0x00 : Byte) ∉ ([0x48] : List Byte) ∧ (0x49 : Byte) ≠ 0x00 ∧ 0 < 6 ∧
      (start .ready true .character .continueOn [] (failsAt 6 5)).bus.accepts (6 * ([0x48] : List Byte).length + 0) ∧
      (start .ready true .character .continueOn [] (failsAt 6 5)).bus.writeAnswer (6 * ([0x48] : List Byte).length + 0) ≠ 0 :=
  ⟨rfl, rfl, rfl, by decide, by decide, by decide, accepts_of_all (by decide), by decide⟩

theorem witness_SubstitutionIsSilent : LegalParameters (ready []).cfg :=
  ⟨by decide, by decide, rfl, by decide, by decide⟩

theorem witness_ClearAccepted :
    (ready (List.replicate 6 0)).usesDefaults ∧ (ready (List.replicate 6 0)).phase = .ready ∧
      (ready (List.replicate 6 0)).readWrite = .write ∧ (ready (List.replicate 6 0)).bus.accepts 6 :=
  ⟨rfl, rfl, rfl, accepts_of_all (by decide)⟩

theorem witness_HomeAccepted :
    (start .ready true .command .abort [] (List.replicate 6 0)).usesDefaults ∧
      (start .ready true .command .abort [] (List.replicate 6 0)).phase = .ready ∧
      (start .ready true .command .abort [] (List.replicate 6 0)).readWrite = .write ∧
      (start .ready true .command .abort [] (List.replicate 6 0)).bus.accepts 6 :=
  ⟨rfl, rfl, rfl, accepts_of_all (by decide)⟩

/-- The operands at the ends of the two rows. -/
theorem witness_GotoAccepted :
    (ready (List.replicate 6 0)).usesDefaults ∧ (ready (List.replicate 6 0)).phase = .ready ∧
      (ready (List.replicate 6 0)).readWrite = .write ∧
      (0 : Byte).toNat ≤ 31 ∧ (15 : Byte).toNat ≤ 31 ∧ (16 : Byte).toNat ≤ 31 ∧ (31 : Byte).toNat ≤ 31 ∧
      (ready (List.replicate 6 0)).bus.accepts 6 :=
  ⟨rfl, rfl, rfl, by decide, by decide, by decide, by decide, accepts_of_all (by decide)⟩

/-- Each operation with its byte, and the last frame failing. -/
theorem witness_OneByteOperationsCutShort :
    (ready (failsAt 5 0)).phase = .ready ∧ (ready (failsAt 5 0)).readWrite = .write ∧
      (ready (failsAt 5 0)).cfg.cmdClear = 0x01 ∧ (ready (failsAt 5 0)).cfg.cmdHome = 0x02 ∧
      (posInRange (ready (failsAt 5 0)).cfg 31 = true ∧
        setAddressByte (ready (failsAt 5 0)).cfg (ddramAddress (ready (failsAt 5 0)).cfg 31) = 0xCF) ∧
      5 < 6 ∧ (ready (failsAt 5 0)).bus.accepts 5 ∧ (ready (failsAt 5 0)).bus.writeAnswer 5 ≠ 0 :=
  ⟨rfl, rfl, rfl, rfl, ⟨by decide, by decide⟩, by decide, accepts_of_all (by decide), by decide⟩

theorem witness_PublicOperationsFrame :
    Instr.goto 32 = .msg 32 [] ∨ Instr.goto 32 = .clear 32 ∨ Instr.goto 32 = .home 32 ∨ Instr.goto 32 = .goto 32 :=
  .inr (.inr (.inr rfl))

/-- A refused operation, an INIT on either answer, a message and a teardown. -/
theorem witness_RegisterSelectAfterOperation :
    (Instr.clear 0).isHost = true ∧ (fresh [true] []).admission (.clear 0) = some .errState ∧
      (fresh [true] []).admission (.init 0) = none ∧ (fresh [true] []).bus.beginAnswer 0 = true ∧
      (fresh [false] []).bus.beginAnswer 0 = false ∧ (ready []).admission (.msg 0 []) = none ∧
      (ready []).admission (.teardown 0) = none := ⟨rfl, rfl, rfl, rfl, rfl, rfl, rfl⟩

theorem witness_StatusReportsEveryWrite :
    (Instr.goto 31 = .msg 31 [] ∨ Instr.goto 31 = .clear 31 ∨ Instr.goto 31 = .home 31 ∨ Instr.goto 31 = .goto 31) ∧
      (ready [-1]).admission (.goto 31) = none := ⟨.inr (.inr (.inr rfl)), rfl⟩

theorem witness_NextOperationInheritsNothing :
    (Instr.home 0 = .msg 0 [] ∨ Instr.home 0 = .clear 0 ∨ Instr.home 0 = .home 0 ∨ Instr.home 0 = .goto 0) ∧
      (ready [-1]).admission (.home 0) = none := ⟨.inr (.inr (.inl rfl)), rfl⟩

/-- The three clauses: a message, GOTO at its last operand, INIT. -/
theorem witness_LeastDurations :
    ((ready (List.replicate 12 0)).usesDefaults ∧ (ready (List.replicate 12 0)).phase = .ready ∧
        (ready (List.replicate 12 0)).bus.accepts (6 * (effectiveText [0x48, 0x49]).length)) ∧
      ((31 : Byte).toNat ≤ 31 ∧ (ready (List.replicate 6 0)).bus.accepts 6) ∧
      (fresh [true] (List.replicate 48 0)).usesDefaults ∧
      (fresh [true] (List.replicate 48 0)).phase = .uninitialized ∧
      (fresh [true] (List.replicate 48 0)).bus.beginAnswer 0 = true ∧
      (fresh [true] (List.replicate 48 0)).bus.accepts
        (36 + 6 * (effectiveText (fresh [true] (List.replicate 48 0)).cfg.selftestText).length) :=
  ⟨⟨rfl, rfl, accepts_of_all (by decide)⟩, ⟨by decide, accepts_of_all (by decide)⟩, rfl, rfl, rfl,
    accepts_of_all (by decide)⟩

theorem witness_OnlyInitAndTeardownWritePhase :
    ∃ t, exec (.teardown 0) (ready []) = .next t ∧
      (t.phase ≠ (ready []).phase ∨ t.backlightOn ≠ (ready []).backlightOn) := ⟨_, rfl, .inl (by decide)⟩

/-- Both clauses: a command presented in `Failed`, and the reset input. -/
theorem witness_FailedIsTerminal :
    (∃ t, step { start .failed false .command .abort [] [] with inputs := [.command 0x000 []] } = .next t) ∧
      (∃ t, step { start .failed false .command .abort [] [] with inputs := [.reset] } = .next t) ∧
      (Instr.init 0).isHost = true := ⟨⟨_, rfl⟩, ⟨_, rfl⟩, rfl⟩

theorem witness_SilentUnlessAdmitted :
    (Instr.clear 0).isHost = true ∧ (fresh [] []).phase ≠ .ready ∧
      ((fresh [] []).phase = .uninitialized → ∀ arg, Instr.clear 0 ≠ .init arg) := ⟨rfl, by decide, by simp⟩

theorem witness_ParametersAndReadWriteFixed : (∃ t, step clearing = .next t) ∧ clearing.readWrite = .write :=
  ⟨⟨_, rfl⟩, rfl⟩

theorem witness_HostInputsNeverStopTheBlock :
    ∀ input ∈ ({ ready [] with inputs := [.command 0x420 [], .reset] } : State).inputs, input.fromHost = true := by decide

/-- An idle state that takes up a command, and a busy one. -/
theorem witness_StepKeepsInvariant :
    ({ ready [0, 0, 0, 0, 0, 0] with inputs := [.command 0x200 []] } : State).Inv ∧
      (∃ t, step { ready [0, 0, 0, 0, 0, 0] with inputs := [.command 0x200 []] } = .next t) ∧
      clearing.Inv ∧ ∃ t, step clearing = .next t :=
  ⟨⟨rfl, (fun f hf => by cases hf), rfl, fun _ => rfl, (fun r h => by cases h)⟩, ⟨_, rfl⟩, clearing_inv, ⟨_, rfl⟩⟩

/-- Every kind of input to an idle block, and a busy block. -/
theorem witness_StepRunsTheDecodedInstruction :
    ({ ready [] with inputs := [.command 0x420 []] } : State).seq = none ∧
      (decode .frame [0x4D]).toOption = some (.frameEnHigh 0x4 true true) ∧ (decode .glyph [0x7E]).toOption = none ∧
      (∃ r, clearing.seq = some r) ∧ (∀ more, clearing.inputs ≠ .reset :: more ∧ clearing.inputs ≠ .pause :: more) ∧
      ({ ready [] with inputs := [.pause, .reset] } : State).inputs = .pause :: [.reset] ∧
      (∃ r, (clearing.setInputs [.pause, .reset]).seq = some r) ∧
      (clearing.setInputs [.pause, .reset]).inputs = .pause :: [.reset] :=
  ⟨rfl, by decide, by decide, ⟨_, rfl⟩, by simp [clearing, start], rfl, ⟨_, rfl⟩, rfl⟩

/-- R30, R182: while nothing is presented the operation goes on, and the reset after it strikes in its middle. -/
theorem test_pause_then_reset :
    (match step (clearing.setInputs [.pause, .reset]) with
      | .next t => (t.seq == clearing.tick.seq && t.inputs == [.reset] &&
          match step t with
          | .next u => u.seq.isNone && u.statuses.isEmpty && u.bus.trace.isEmpty
          | _ => false)
      | _ => false) = true := by decide

/-- An operation in progress is struck too. -/
theorem witness_ResetFromEveryState :
    ({ clearing with inputs := [.reset] } : State).inputs = .reset :: [] := rfl

/-- A frame's delay at hand, and the call of `T.end()` as the last event of a TEARDOWN. -/
theorem witness_OneEventPerSmallStep :
    (clearing.Inv ∧ clearing.position = some ⟨.clear 0, 1, .frame .high 0 .wait⟩) ∧
      ((ready []).accept (.teardown 0)).Inv ∧ ((ready []).accept (.teardown 0)).position = some ⟨.teardown 0, 0, .call⟩ := by
  refine ⟨⟨clearing_inv, rfl⟩, ⟨rfl, (fun f hf => by cases hf), rfl, fun h => (by cases h), fun r h => ?_⟩, rfl⟩
  cases h
  exact ⟨⟨rfl, rfl⟩, by decide, by decide, fun _ => ⟨_, rfl, rfl⟩, fun h => absurd rfl h, fun _ _ h => (by simp [Run.begin] at h),
    rfl⟩

/-- A command byte and a glyph byte at the head of the list. -/
theorem witness_FramingMachineRefinesPseudocode :
    ((Run.begin (.clear 0) [.cbyte 0x01]).framing = .idle ∧ (Run.begin (.clear 0) [.cbyte 0x01]).todo = .cbyte 0x01 :: []) ∧
      (Run.begin (.msg 0 [0x41]) [.gbyte 0x41]).framing = .idle ∧
      (Run.begin (.msg 0 [0x41]) [.gbyte 0x41]).todo = .gbyte 0x41 :: [] := by decide

theorem witness_EventRunRefinesTransaction : (ready [0, -1]).seq = none ∧ (Instr.clear 0).isHost = true := ⟨rfl, rfl⟩

theorem witness_FramingReturnsWithinThirteen : ∃ r, clearing.seq = some r ∧ r.framing ≠ .idle := ⟨_, rfl, by decide⟩

theorem witness_InitWalksThePhases :
    (fresh [true] (List.replicate 48 0)).seq = none ∧ (fresh [true] (List.replicate 48 0)).phase = .uninitialized :=
  ⟨rfl, rfl⟩

end Sys2Proof.Machine.Tests
end

/-! The obligations of 00_scope.md: what an instruction and a step can do to the parameters and to `readWrite`
(R7, R23), and that host inputs always have a next state (R12). -/

namespace Sys2Proof.Machine

variable (s : State)

/-! ## What no instruction writes -/

/-- The fields that no instruction writes: `readWrite` (R23), the sequencer, which only the stepping of an operation
moves (R28), the inputs to come, the parameters (R7) and the model's own size of a step. -/
def State.fixed (s : State) : ReadWrite × Option Run × List Input × Config × Granularity :=
  (s.readWrite, s.seq, s.inputs, s.cfg, s.granularity)

@[simp] theorem setPhase_fixed (p : Phase) : (s.setPhase p).fixed = s.fixed := rfl
@[simp] theorem setBacklight_fixed (v : Bool) : (s.setBacklight v).fixed = s.fixed := rfl
@[simp] theorem setRegisterSelect_fixed (v : RegisterSelect) : (s.setRegisterSelect v).fixed = s.fixed := rfl
@[simp] theorem setBus_fixed (b : Bus) : (s.setBus b).fixed = s.fixed := rfl
@[simp] theorem respond_fixed (st : Status) : (s.respond st).fixed = s.fixed := rfl
@[simp] theorem handBack_fixed (r : PrimResult) : (s.handBack r).fixed = s.fixed := rfl

/-! ### The bodies of the instructions -/

@[simp] theorem writeByte_fixed (code : Byte) : (s.writeByte code).2.fixed = s.fixed := by
  rw [writeByte_state, setBus_fixed]

@[simp] theorem cmdByte_fixed (b : Byte) : (s.cmdByte b).2.fixed = s.fixed := by
  rw [cmdByte_state, setBus_fixed]

@[simp] theorem msgBody_fixed (text : List Byte) : (s.msgBody text).2.fixed = s.fixed := by
  rw [State.msgBody, sendText_state, setBus_fixed, setRegisterSelect_fixed]

@[simp] theorem enterFourBit_fixed : s.enterFourBit.2.fixed = s.fixed := by
  obtain ⟨bus, h⟩ := enterFourBit_unchanged s
  simp [h]

@[simp] theorem configure_fixed : s.configure.2.fixed = s.fixed := by
  obtain ⟨bus, h⟩ := configure_unchanged s
  simp [h]

@[simp] theorem selftest_fixed : s.selftest.2.fixed = s.fixed := by
  obtain ⟨bus, h⟩ := selftest_unchanged s
  simp [h]

theorem initBody_fixed : s.initBody.2.fixed = s.fixed := by
  unfold State.initBody
  dsimp only
  split
  · simp [State.joinThen]
  · simp

theorem gotoBody_fixed (pos : Byte) :
    (if posInRange s.cfg pos then
      (s.setRegisterSelect .command).cmdByte (setAddressByte s.cfg (ddramAddress s.cfg pos))
    else (.errRange, s)).2.fixed = s.fixed := by
  split <;> simp

/-! ### The ways of running a body -/

theorem operate_fixed {need : Phase} {body : State → Status × State} (h : (body s).2.fixed = s.fixed) :
    (s.operate need body).fixed = s.fixed := by
  unfold State.operate
  split
  · rw [respond_fixed, h]
  · rw [respond_fixed]

theorem runPrimitive_fixed {body : State → Status × State} (h : (body s).2.fixed = s.fixed) :
    (s.runPrimitive body).fixed = s.fixed := by
  rw [State.runPrimitive, handBack_fixed, h]

/-- Everything an instruction can answer: a next state with the fixed fields kept, or, for a frame in read mode and so
for no host operation, the refusal (R23, R63). -/
theorem exec_cases (i : Instr) :
    (∃ t, exec i s = .next t ∧ t.fixed = s.fixed) ∨
      (i.isHost = false ∧ exec i s = .refused .readModeUnsupported) := by
  cases i with
  | frameRwSet nibble bl en rs => exact .inr ⟨rfl, rfl⟩
  | init arg => exact .inl ⟨_, rfl, operate_fixed s (initBody_fixed s)⟩
  | msg arg text => exact .inl ⟨_, rfl, operate_fixed s (msgBody_fixed s text)⟩
  | clear arg => exact .inl ⟨_, rfl, operate_fixed s (cmdByte_fixed (s.setRegisterSelect .command) _)⟩
  | home arg => exact .inl ⟨_, rfl, operate_fixed s (cmdByte_fixed (s.setRegisterSelect .command) _)⟩
  | goto pos => exact .inl ⟨_, rfl, operate_fixed s (gotoBody_fixed s pos)⟩
  | teardown arg => exact .inl ⟨_, rfl, operate_fixed s rfl⟩
  | reserved6 arg => exact .inl ⟨_, rfl, respond_fixed s _⟩
  | reserved7 arg => exact .inl ⟨_, rfl, respond_fixed s _⟩
  | frameEnLow nibble bl rs => exact .inl ⟨_, rfl, runPrimitive_fixed s rfl⟩
  | frameEnHigh nibble bl rs => exact .inl ⟨_, rfl, runPrimitive_fixed s rfl⟩
  | lcdFourbit | lcdFuncset | lcdDispoff | lcdClear | lcdEntry | lcdDispon | lcdHome =>
    exact .inl ⟨_, rfl, runPrimitive_fixed s (cmdByte_fixed s _)⟩
  | lcdSetddram addr => exact .inl ⟨_, rfl, runPrimitive_fixed s (cmdByte_fixed s _)⟩
  | glyph g => exact .inl ⟨_, rfl, runPrimitive_fixed s (writeByte_fixed s g)⟩
  | encode c => exact .inl ⟨_, rfl, handBack_fixed s _⟩
  | writeNibble n => exact .inl ⟨_, rfl, runPrimitive_fixed s rfl⟩
  | writeByte code => exact .inl ⟨_, rfl, runPrimitive_fixed s (writeByte_fixed s code)⟩
  | cmdByte b => exact .inl ⟨_, rfl, runPrimitive_fixed s (cmdByte_fixed s b)⟩

theorem exec_fixed {i : Instr} {t : State} (h : exec i s = .next t) : t.fixed = s.fixed := by
  rcases exec_cases s i with ⟨u, hu, hfixed⟩ | ⟨_, hrefused⟩
  · obtain rfl : u = t := Host.Outcome.next.inj (hu.symm.trans h)
    exact hfixed
  · rw [hrefused] at h
    cases h

theorem exec_next_of_isHost {i : Instr} (h : i.isHost = true) : ∃ t, exec i s = .next t := by
  rcases exec_cases s i with ⟨t, ht, _⟩ | ⟨hnot, _⟩
  · exact ⟨t, ht⟩
  · rw [h] at hnot
    cases hnot

/-! ## A step -/

/-- Accepting a command event by event writes none of what a small step never writes. -/
theorem accept_setting (i : Instr) : s.SameSetting (s.accept i) := by
  unfold State.accept
  split
  · exact .refl s
  · exact goOn_setting s _

/-- Everything a step that answers a next state can have done. -/
theorem step_cases {t : State} (h : step s = .next t) :
    (∃ rest, s.fetch = .reset rest ∧ t = s.hardReset.setInputs rest) ∨
    (s.fetch = .busy ∧ t = s.tick) ∨
    (s.fetch = .nothing ∧ t = s) ∨
    (∃ rest, s.fetch = .pause rest ∧ t = s.tick.setInputs rest) ∨
    (∃ i rest, s.fetch = .command i rest ∧ s.granularity = .event ∧ t = (s.setInputs rest).accept i) ∨
    (∃ i rest, (s.fetch = .command i rest ∧ s.granularity = .transaction ∨ s.fetch = .inner i rest) ∧
      exec i (s.setInputs rest) = .next t) := by
  unfold step at h
  cases hf : s.fetch <;> simp only [hf] at h
  case reset rest => exact .inl ⟨rest, rfl, (Host.Outcome.next.inj h).symm⟩
  case busy => exact .inr (.inl ⟨rfl, (Host.Outcome.next.inj h).symm⟩)
  case nothing => exact .inr (.inr (.inl ⟨rfl, (Host.Outcome.next.inj h).symm⟩))
  case pause rest => exact .inr (.inr (.inr (.inl ⟨rest, rfl, (Host.Outcome.next.inj h).symm⟩)))
  case command i rest =>
    cases hg : s.granularity <;> simp only [hg] at h
    case transaction => exact .inr (.inr (.inr (.inr (.inr ⟨i, rest, .inl ⟨rfl, rfl⟩, h⟩))))
    case event => exact .inr (.inr (.inr (.inr (.inl ⟨i, rest, rfl, rfl, (Host.Outcome.next.inj h).symm⟩))))
  case inner i rest => exact .inr (.inr (.inr (.inr (.inr ⟨i, rest, .inr rfl, h⟩))))
  case noWord e => cases h

/-! ## What a host can make the block take up -/

theorem decodeCommand_isHost (w : CmdWord) (text : List Byte) : (decodeCommand w text).isHost = true := by
  unfold decodeCommand
  split <;> rfl

/-- What a host can present is fetched as the reset, as nothing, as the operation in progress or as a host operation
(R70, R74). -/
def Fetched.fromHost : Fetched → Bool
  | .reset _ | .busy | .nothing | .pause _ => true
  | .command i _ => i.isHost
  | .inner _ _ | .noWord _ => false

theorem fetchInput_fromHost {input : Input} (rest : List Input) (h : input.fromHost = true) :
    (fetchInput rest input).fromHost = true := by
  cases input with
  | command w text => exact decodeCommand_isHost w text
  | reset | pause => rfl
  | inner | primitive => cases h

theorem fetchWhenBusy_fromHost (rest : List Input) (input : Input) : (fetchWhenBusy rest input).fromHost = true := by
  cases input <;> rfl

theorem fetch_fromHost (h : ∀ input ∈ s.inputs, input.fromHost = true) : s.fetch.fromHost = true := by
  unfold State.fetch
  cases hi : s.inputs with
  | nil => cases s.busy <;> rfl
  | cons input rest =>
    cases s.busy with
    | true => exact fetchWhenBusy_fromHost rest input
    | false => exact fetchInput_fromHost rest (h input (by simp [hi]))

theorem step_next_of_fromHost (h : s.fetch.fromHost = true) : ∃ t, step s = .next t := by
  unfold step
  cases hf : s.fetch with
  | reset rest => exact ⟨_, rfl⟩
  | busy => exact ⟨_, rfl⟩
  | nothing => exact ⟨_, rfl⟩
  | pause rest => exact ⟨_, rfl⟩
  | command i rest =>
    rw [hf] at h
    cases s.granularity with
    | transaction => exact exec_next_of_isHost (s.setInputs rest) h
    | event => exact ⟨_, rfl⟩
  | inner | noWord =>
    rw [hf] at h
    cases h

/-! ## The default parameters -/

/-- With a self-test text that has no `0x00` the default parameters obey the laws of the table (R7). -/
theorem standard_legal {text : List Byte} (policy : ErrPolicy) (h : (0 : Byte) ∉ text) :
    LegalParameters (Config.standard text policy) where
  settleLongEnough := Nat.le_refl 1500
  selftestHasNoNull := h
  oneBaseARow := rfl
  rowsFitAddresses := show ∀ base ∈ Default.rowBase, base.toNat + Default.cols ≤ 128 by decide
  glyphsNotNull :=
    show 0 < Default.encLo ∧ Default.encLo ≤ Default.fallback ∧ Default.fallback ≤ Default.encHi by decide

/-! ## The obligations -/

/-- Settles O50: a step is the reset, small steps, an acceptance or an instruction, and each keeps the three fields. -/
theorem parametersAndReadWriteFixed : Obligations.ParametersAndReadWriteFixed := by
  intro s t h
  rcases step_cases s h with ⟨rest, _, rfl⟩ | ⟨_, rfl⟩ | ⟨_, rfl⟩ | ⟨rest, _, rfl⟩ | ⟨i, rest, _, _, rfl⟩ |
    ⟨i, rest, _, hexec⟩
  · exact ⟨rfl, rfl, fun _ => rfl⟩
  · obtain ⟨hrw, _, hcfg, hgran, _⟩ := tick_setting s
    exact ⟨hcfg, hgran, hrw.trans⟩
  · exact ⟨rfl, rfl, id⟩
  · obtain ⟨hrw, _, hcfg, hgran, _⟩ := tick_setting s
    exact ⟨hcfg, hgran, hrw.trans⟩
  · obtain ⟨hrw, _, hcfg, hgran, _⟩ := accept_setting (s.setInputs rest) i
    exact ⟨hcfg, hgran, hrw.trans⟩
  · have hfixed := exec_fixed (s.setInputs rest) hexec
    simp only [State.fixed, Prod.mk.injEq] at hfixed
    obtain ⟨hrw, _, _, hcfg, hgran⟩ := hfixed
    exact ⟨hcfg, hgran, hrw.trans⟩

/-- Settles O51: a host's input is never fetched as an inner byte or as no word, and every host operation answers. -/
theorem hostInputsNeverStopTheBlock : Obligations.HostInputsNeverStopTheBlock :=
  fun s h => step_next_of_fromHost s (fetch_fromHost s h)

/-- Settles O2: the values are the default table's, and the reset state's text is the free one without its `0x00`s. -/
theorem defaultParameterValues : Obligations.DefaultParameterValues := by
  refine ⟨fun text policy => ?_, rfl, standard_legal _ ?_⟩
  · exact ⟨rfl, rfl, rfl, rfl, rfl, rfl, rfl, rfl, rfl, rfl, rfl, rfl, rfl, rfl, rfl, rfl, rfl, rfl, rfl⟩
  · simp

end Sys2Proof.Machine

/-! The obligations of 10_state.md: the sequencer's small steps (R28), the invariant of the block (R34) and the phases of an
INIT (R24).  A small step is one event (`State.emit`), then what emits none (`State.goOn`); each is described once, for the
items of the operation and for the registers of the framing machine, and the obligations are put together from that. -/

namespace Sys2Proof.Machine

variable (s : State)

/-! ## The items of an operation -/

/-- Whether an item emits no event (R108). -/
def Item.silent (item : Item) : Bool := !item.calls && !item.sendsByte

/-- The items still to do lead between operations, and `BEGIN` can only be the first of them and only at the reset values of
the control bits: what `Run.Sound` says of a list. -/
structure LeadsOn (b : Bits) (items : List Item) : Prop where
  toQuiet : (items.foldl Item.apply b).quiet
  beginOnlyFirst : Item.bus ∉ items.tail
  beginAtReset : items.head? = some .bus → b.2.1 = false ∧ b.2.2 = .command

theorem LeadsOn.passed {b : Bits} {passed rest : List Item} (h : LeadsOn b (passed ++ rest)) :
    LeadsOn (passed.foldl Item.apply b) rest := by
  obtain ⟨hq, hb, hr⟩ := h
  cases passed with
  | nil => exact ⟨hq, hb, hr⟩
  | cons x xs =>
    have hrest : Item.bus ∉ rest := fun hm => hb (List.mem_append_right xs hm)
    refine ⟨by rwa [List.foldl_append] at hq, fun hm => hrest (List.mem_of_mem_tail hm), fun hh => ?_⟩
    exact absurd (List.mem_of_head? hh) hrest

/-- An item that sends a byte writes no field. -/
theorem apply_of_sendsByte {item : Item} (b : Bits) (h : item.sendsByte = true) : item.apply b = b := by
  cases item with
  | cbyte | gbyte => rfl
  | _ => cases h

/-- Glyph bytes write no field. -/
theorem foldl_apply_glyphs {items : List Item} (b : Bits) (h : ∀ x ∈ items, x.isGlyph = true) :
    items.foldl Item.apply b = b := by
  induction items with
  | nil => rfl
  | cons x xs ih =>
    obtain ⟨hx, hxs⟩ := List.forall_mem_cons.mp h
    cases x with
    | gbyte c => exact ih hxs
    | _ => cases hx

theorem LeadsOn.dropGlyphs {b : Bits} {items : List Item} (h : LeadsOn b items) :
    LeadsOn b (items.dropWhile Item.isGlyph) := by
  rw [← List.takeWhile_append_dropWhile (p := Item.isGlyph) (l := items)] at h
  have := h.passed
  rwa [foldl_apply_glyphs b fun x hx => List.mem_takeWhile_imp hx] at this

/-- Where the last event of an item takes the fields and the items still to do: past the item; past the rest of the message
too, if a byte failed under `Abort` (R143); or, if `BEGIN` is answered `false`, to `Failed` (R121, R130). -/
inductive Onward : Bits → List Item → Bits → List Item → Prop
  | past (b : Bits) (item : Item) (rest : List Item) : Onward b (item :: rest) (item.apply b) rest
  | pastMessage (b : Bits) (item : Item) (rest : List Item) (h : item.sendsByte = true) :
      Onward b (item :: rest) (item.apply b) (rest.dropWhile Item.isGlyph)
  | cannotStart (b : Bits) (rest : List Item) : Onward b (.bus :: rest) b [.setPhase .failed]

theorem LeadsOn.onward {b b' : Bits} {items items' : List Item} (h : LeadsOn b items) (ho : Onward b items b' items') :
    LeadsOn b' items' := by
  cases ho with
  | past item => exact LeadsOn.passed (passed := [item]) h
  | pastMessage item => exact (LeadsOn.passed (passed := [item]) h).dropGlyphs
  | cannotStart => exact ⟨h.beginAtReset rfl, by simp, by simp⟩

/-- A run stands at an event: the call of an item that calls the transport, or an event of the byte its item sends (R28). -/
structure Run.Placed (r : Run) : Prop where
  atCall : r.framing = .idle → ∃ item, r.todo.head? = some item ∧ item.calls = true
  atByte : r.framing ≠ .idle → ∃ item, r.todo.head? = some item ∧ item.sendsByte = true

theorem Run.Placed.cons {r : Run} (h : r.Placed) :
    ∃ item rest, r.todo = item :: rest ∧ (if r.framing = .idle then item.calls else item.sendsByte) = true := by
  by_cases hf : r.framing = .idle
  · obtain ⟨item, hhead, hcalls⟩ := h.atCall hf
    obtain ⟨rest, hrest⟩ := List.head?_eq_some_iff.mp hhead
    exact ⟨item, rest, hrest, by rwa [if_pos hf]⟩
  · obtain ⟨item, hhead, hbyte⟩ := h.atByte hf
    obtain ⟨rest, hrest⟩ := List.head?_eq_some_iff.mp hhead
    exact ⟨item, rest, hrest, by rwa [if_neg hf]⟩

theorem Run.Placed.head {r : Run} (h : r.Placed) : ∃ item rest, r.todo = item :: rest ∧ item.silent = false := by
  obtain ⟨item, rest, ht, hevent⟩ := h.cons
  refine ⟨item, rest, ht, ?_⟩
  split at hevent <;> simp [Item.silent, hevent]

theorem Run.placed_of_cons {r : Run} {item : Item} {rest : List Item} (ht : r.todo = item :: rest)
    (h : r.framing = .idle ∧ item.calls = true ∨ r.framing ≠ .idle ∧ item.sendsByte = true) : r.Placed := by
  have hhead : r.todo.head? = some item := by rw [ht]; rfl
  rcases h with ⟨hf, hc⟩ | ⟨hf, hb⟩
  · exact ⟨fun _ => ⟨item, hhead, hc⟩, fun hne => absurd hf hne⟩
  · exact ⟨fun he => absurd he hf, fun _ => ⟨item, hhead, hb⟩⟩

/-! ## The registers of the framing machine -/

/-- A run waits for the settling delay of a frame. -/
def Run.settling (r : Run) : Prop := ∃ nib k, r.framing = .wt nib k

/-- The base frame in use has its read/write bit 0, and the timer runs exactly while the sequencer waits: what `Run.Sound`
says of the framing machine. -/
structure Run.Driven (cfg : Config) (r : Run) : Prop where
  frameWrites : ∀ nib k, r.framing = .tx nib k ∨ r.framing = .wt nib k → r.f.getLsbD 1 = false
  timerMatches : r.timer = r.framing.delay cfg

theorem Run.sound_iff (r : Run) : r.Sound s ↔ LeadsOn s.bits r.todo ∧ r.Placed ∧ r.Driven s.cfg :=
  ⟨fun ⟨h1, h2, h3, h4, h5, h6, h7⟩ => ⟨⟨h1, h2, h3⟩, ⟨h4, h5⟩, ⟨h6, h7⟩⟩,
    fun ⟨⟨h1, h2, h3⟩, ⟨h4, h5⟩, ⟨h6, h7⟩⟩ => ⟨h1, h2, h3, h4, h5, h6, h7⟩⟩

theorem Run.byteDone_driven (cfg : Config) (r : Run) (policy : ErrPolicy) : (r.byteDone policy).Driven cfg :=
  ⟨fun _ _ h => h.elim nofun nofun, rfl⟩

/-- Where the end of a byte's last settling delay leads. -/
theorem Run.settled_cases (cfg : Config) (r : Run) :
    r.settled cfg = { r with framing := .cw, timer := some cfg.tCmd } ∨ r.settled cfg = r.byteDone cfg.errPolicy := by
  unfold Run.settled
  split
  · exact .inl rfl
  · exact .inr rfl

/-- Where the end of a settling delay leads (R109): to a later frame, whose base frame is the one in use or the low nibble's;
to the command's own delay; or out of the byte. -/
theorem Run.afterWait_cases (cfg : Config) (low : Byte) (nib : Half) (k : Fin 3) (r : Run) :
    (∃ nib' k' f, r.afterWait cfg low nib k = { r with framing := .tx nib' k', f := f, timer := none } ∧
      (f = r.f ∨ f = low) ∧ (Place.frame nib k .wait).rank < (Place.frame nib' k' .tx).rank) ∨
    r.afterWait cfg low nib k = { r with framing := .cw, timer := some cfg.tCmd } ∨
    r.afterWait cfg low nib k = r.byteDone cfg.errPolicy := by
  unfold Run.afterWait
  split
  · exact .inr (r.settled_cases cfg)
  · split
    · next hk =>
      refine .inl ⟨nib, k + 1, r.f, rfl, .inl rfl, ?_⟩
      have hval : (k + 1).val = k.val + 1 := Fin.val_add_one_of_lt (Fin.lt_def.mpr hk)
      simp only [Place.rank, hval]
      simp
      omega
    · cases nib with
      | high => exact .inl ⟨.low, 0, low, rfl, .inr rfl, by simp [Place.rank]; omega⟩
      | low => exact .inr (r.settled_cases cfg)

/-! ## Going on: what emits no event -/

/-- Where going on stops: at the end of the list, or before an event of the items that are left (R28, R108). -/
structure Stopped (s : State) (r : Run) (t : State) (passed rest : List Item) : Prop where
  silent : ∀ x ∈ passed, x.silent = true
  bits : t.bits = passed.foldl Item.apply s.bits
  stands : rest = [] ∧ t.seq = none ∨
    ∃ q, t.seq = some q ∧ q.todo = rest ∧ q.Placed ∧ ¬ q.settling ∧
      (s.readWrite = .write → r.Driven s.cfg → q.Driven t.cfg)

theorem Stopped.skip {s u t : State} {r q : Run} {item : Item} {passed rest : List Item}
    (h : Stopped u q t passed rest) (hsilent : item.silent = true) (hbits : u.bits = item.apply s.bits)
    (hrw : u.readWrite = s.readWrite) (hdriven : r.Driven s.cfg → q.Driven u.cfg) :
    Stopped s r t (item :: passed) rest where
  silent := List.forall_mem_cons.mpr ⟨hsilent, h.silent⟩
  bits := by rw [h.bits, hbits]; rfl
  stands := h.stands.imp id fun ⟨p, hseq, htodo, hplaced, hset, hd⟩ =>
    ⟨p, hseq, htodo, hplaced, hset, fun hw hr => hd (hrw.trans hw) (hdriven hr)⟩

/-- A byte is loaded: the sequencer stands at its first frame (R109, row IDLE). -/
theorem Stopped.load {r : Run} {item : Item} {rest : List Item} (ht : r.todo = item :: rest)
    (hbyte : item.sendsByte = true) (hf : r.framing = .idle) (b n : Byte) (iscmd : Bool) :
    Stopped s r (s.setSeq (some (r.load b (s.baseFrame n) iscmd))) [] (item :: rest) where
  silent := by simp
  bits := rfl
  stands := by
    refine .inr ⟨_, rfl, ht, Run.placed_of_cons ht (.inr ⟨by simp [Run.load], hbyte⟩), by simp [Run.settling, Run.load],
      fun hw hr => ⟨fun _ _ _ => baseFrame_write_bit s n hw, ?_⟩⟩
    rw [Run.load, hr.timerMatches, hf]
    rfl

theorem Stopped.call {r : Run} {item : Item} {rest : List Item} (ht : r.todo = item :: rest)
    (hcalls : item.calls = true) (hf : r.framing = .idle) : Stopped s r (s.setSeq (some r)) [] (item :: rest) where
  silent := by simp
  bits := rfl
  stands := .inr ⟨r, rfl, ht, Run.placed_of_cons ht (.inl ⟨hf, hcalls⟩), by simp [Run.settling, hf], fun _ hr => hr⟩

/-- Going on passes items without an event, then stops at the end of the list or before the next event (R28, R108). -/
theorem pass_stopped (items : List Item) (r : Run) (hf : r.framing = .idle) (ht : r.todo = items) :
    ∃ passed rest, items = passed ++ rest ∧ Stopped s r (s.pass items r) passed rest := by
  induction items generalizing s r with
  | nil => exact ⟨[], [], rfl, by simp, rfl, .inl ⟨rfl, rfl⟩⟩
  | cons item rest ih =>
    have skip (u : State) (hsilent : item.silent = true) (hbits : u.bits = item.apply s.bits)
        (hrw : u.readWrite = s.readWrite) (hcfg : u.cfg = s.cfg) :
        ∃ passed rest', item :: rest = passed ++ rest' ∧ Stopped s r (u.pass rest r.pop) passed rest' := by
      obtain ⟨passed, rest', hsplit, h⟩ := ih u r.pop hf (by simp [Run.pop, ht])
      exact ⟨item :: passed, rest', by rw [hsplit]; rfl,
        h.skip hsilent hbits hrw fun hr => hcfg ▸ ⟨hr.frameWrites, hr.timerMatches⟩⟩
    cases item with
    | setPhase p => exact skip (s.setPhase p) rfl rfl rfl rfl
    | setBacklight v => exact skip (s.setBacklight v) rfl rfl rfl rfl
    | setRegisterSelect v => exact skip (s.setRegisterSelect v) rfl rfl rfl rfl
    | cbyte b => exact ⟨[], _, rfl, .load s ht rfl hf b _ true⟩
    | gbyte c => exact ⟨[], _, rfl, .load s ht rfl hf _ _ false⟩
    | bus | addr | release => exact ⟨[], _, rfl, .call s ht rfl hf⟩

theorem goOn_stopped (r : Run) (hf : r.framing = .idle) :
    ∃ passed rest, r.todo = passed ++ rest ∧ Stopped s r (s.goOn r) passed rest := by
  rw [goOn_idle s hf]
  exact pass_stopped s r.todo r hf rfl

theorem awaitingSettle_iff : s.awaitingSettle = true ↔ ∃ r, s.seq = some r ∧ r.settling := by
  unfold State.awaitingSettle Run.settling
  split
  · next h => simp [h]
  · next r h => cases hf : r.framing <;> simp [h, hf]

/-- Going on neither starts nor ends the wait for a settling delay. -/
theorem goOn_awaitingSettle (r : Run) : (s.goOn r).awaitingSettle = true ↔ r.settling := by
  rw [awaitingSettle_iff]
  by_cases hf : r.framing = .idle
  · have hnot : ¬ r.settling := by simp [Run.settling, hf]
    obtain ⟨passed, rest, _, h⟩ := goOn_stopped s r hf
    rcases h.stands with ⟨_, hseq⟩ | ⟨q, hseq, _, _, hq, _⟩
    · simp [hseq, hnot]
    · simp [hseq, hnot, hq]
  · simp [goOn_sending s hf]

/-- Where going on leads keeps what holds of an operation: it is over and the fields are quiet, or it stands at an event. -/
theorem goOn_sound (r : Run) (hw : s.readWrite = .write) (hlist : LeadsOn s.bits r.todo) (hdriven : r.Driven s.cfg)
    (hplaced : r.framing ≠ .idle → r.Placed) :
    ((s.goOn r).seq = none → (s.goOn r).bits.quiet) ∧ ∀ q, (s.goOn r).seq = some q → q.Sound (s.goOn r) := by
  by_cases hf : r.framing = .idle
  · obtain ⟨passed, rest, hsplit, h⟩ := goOn_stopped s r hf
    rw [hsplit] at hlist
    have hrest := hlist.passed
    rw [← h.bits] at hrest
    rcases h.stands with ⟨hnil, hseq⟩ | ⟨q, hseq, htodo, hq, _, hd⟩
    · subst hnil
      exact ⟨fun _ => hrest.toQuiet, by simp [hseq]⟩
    · refine ⟨by simp [hseq], fun q' hq' => ?_⟩
      obtain rfl : q = q' := Option.some.inj (hseq.symm.trans hq')
      exact (q.sound_iff _).mpr ⟨htodo ▸ hrest, hq, hd hw hdriven⟩
  · rw [goOn_sending s hf]
    refine ⟨nofun, fun q hq => ?_⟩
    obtain rfl : r = q := Option.some.inj hq
    exact (r.sound_iff _).mpr ⟨hlist, hplaced hf, hdriven⟩

/-! ## The event of a small step -/

theorem emit_call {r : Run} {item : Item} {rest : List Item} (hf : r.framing = .idle) (ht : r.todo = item :: rest) :
    s.emit r = s.callItem r item := by
  simp [State.emit, hf, ht]

theorem emit_tx {r : Run} {nib : Half} {k : Fin 3} (hf : r.framing = .tx nib k) :
    s.emit r = (s.setBus (s.bus.callWrite (r.frame k)).2,
      { r with framing := .wt nib k, fail := decide (s.bus.writeAnswer 0 ≠ 0), timer := some s.cfg.tSettle }) := by
  rw [State.emit, hf]
  rfl

theorem emit_wt {r : Run} {nib : Half} {k : Fin 3} (hf : r.framing = .wt nib k) :
    s.emit r = (s.setBus (s.bus.wait s.cfg.tSettle), r.afterWait s.cfg (s.baseFrame (lowNibble r.cur)) nib k) := by
  simp [State.emit, hf]

theorem emit_cw {r : Run} (hf : r.framing = .cw) :
    s.emit r = (s.setBus (s.bus.wait s.cfg.tCmd), r.byteDone s.cfg.errPolicy) := by
  simp [State.emit, hf]

/-- `BEGIN` is answered `true`, or it is answered `false` and the list is replaced (R121, R130). -/
theorem callItem_bus_cases (r : Run) :
    s.callItem r .bus = ((s.setBus s.bus.callBegin.2).setPhase .busReady, r.pop) ∨
      s.callItem r .bus =
        (s.setBus s.bus.callBegin.2, { r.pop with todo := [.setPhase .failed], err := .errInit }) := by
  unfold State.callItem
  dsimp only
  split
  · exact .inl rfl
  · exact .inr rfl

/-- Which event a run stands at (R28, R109). -/
def Run.fires (cfg : Config) (r : Run) (ev : Event) : Prop :=
  match r.framing with
  | .idle => (∃ ok, ev = .began ok) ∨ (∃ a, ev = .setAddr a) ∨ ev = .ended
  | .tx _ k => ∃ st, ev = .tx (r.frame k) st
  | .wt _ _ => ev = .wait cfg.tSettle
  | .cw => ev = .wait cfg.tCmd

/-- A run that stands at an event emits it, and consumes a write answer exactly if it is a frame. -/
theorem emit_event (r : Run) :
    (∃ ev, r.fires s.cfg ev ∧ (s.emit r).1.bus.trace = s.bus.trace ++ [ev] ∧
      (s.emit r).1.bus.writeCalls = s.bus.writeCalls + (txFrames [ev]).length) ∨
    (¬ r.Placed ∧ s.emit r = (s, r)) := by
  cases hf : r.framing with
  | tx nib k =>
    rw [emit_tx s hf]
    exact .inl ⟨.tx (r.frame k) _, by simp [Run.fires, hf], rfl, rfl⟩
  | wt nib k =>
    rw [emit_wt s hf]
    exact .inl ⟨.wait s.cfg.tSettle, by simp [Run.fires, hf], rfl, rfl⟩
  | cw =>
    rw [emit_cw s hf]
    exact .inl ⟨.wait s.cfg.tCmd, by simp [Run.fires, hf], rfl, rfl⟩
  | idle =>
    cases ht : r.todo with
    | nil => exact .inr ⟨fun hp => by simpa [ht] using hp.atCall hf, by simp [State.emit, hf, ht]⟩
    | cons item rest =>
      rw [emit_call s hf ht]
      cases item with
      | bus =>
        rcases callItem_bus_cases s r with h | h <;> rw [h] <;>
          exact .inl ⟨.began (s.bus.beginAnswer 0), by simp [Run.fires, hf], rfl, rfl⟩
      | addr => exact .inl ⟨.setAddr s.cfg.i2cAddr, by simp [Run.fires, hf], rfl, rfl⟩
      | release => exact .inl ⟨.ended, by simp [Run.fires, hf], rfl, rfl⟩
      | _ => exact .inr ⟨fun hp => by simpa [ht, Item.calls] using hp.atCall hf, rfl⟩

theorem emit_driven {r : Run} (hw : s.readWrite = .write) (h : r.Driven s.cfg) : (s.emit r).2.Driven s.cfg := by
  cases hf : r.framing with
  | tx nib k =>
    rw [emit_tx s hf]
    exact ⟨fun _ _ _ => h.frameWrites nib k (.inl hf), rfl⟩
  | wt nib k =>
    have hbit := h.frameWrites nib k (.inr hf)
    rw [emit_wt s hf]
    rcases r.afterWait_cases s.cfg (s.baseFrame (lowNibble r.cur)) nib k with ⟨_, _, f, heq, hor, _⟩ | heq | heq <;>
      rw [heq]
    · refine ⟨fun _ _ _ => ?_, rfl⟩
      rcases hor with rfl | rfl
      · exact hbit
      · exact baseFrame_write_bit s _ hw
    · exact ⟨fun _ _ h => h.elim nofun nofun, rfl⟩
    · exact r.byteDone_driven s.cfg _
  | cw =>
    rw [emit_cw s hf]
    exact r.byteDone_driven s.cfg _
  | idle =>
    have idle (q : Run) (hq : q.framing = .idle) (ht : q.timer = r.timer) : q.Driven s.cfg := by
      refine ⟨fun _ _ h => ?_, ?_⟩
      · simp [hq] at h
      · rw [ht, h.timerMatches, hf, hq]
    cases ht : r.todo with
    | nil => simpa [State.emit, hf, ht] using h
    | cons item rest =>
      rw [emit_call s hf ht]
      cases item with
      | bus => rcases callItem_bus_cases s r with h | h <;> rw [h] <;> exact idle _ hf rfl
      | _ => exact idle _ hf rfl

/-- A run waits for a settling delay exactly after a frame. -/
theorem emit_settling (r : Run) : (s.emit r).2.settling ↔ ∃ nib k, r.framing = .tx nib k := by
  cases hf : r.framing with
  | tx nib k => simp [emit_tx s hf, Run.settling]
  | wt nib k =>
    rw [emit_wt s hf]
    rcases r.afterWait_cases s.cfg (s.baseFrame (lowNibble r.cur)) nib k with ⟨_, _, f, heq, _⟩ | heq | heq <;>
      simp [heq, Run.settling, Run.byteDone]
  | cw => simp [emit_cw s hf, Run.settling, Run.byteDone]
  | idle =>
    cases ht : r.todo with
    | nil => simp [State.emit, hf, ht, Run.settling]
    | cons item rest =>
      rw [emit_call s hf ht]
      cases item with
      | bus => rcases callItem_bus_cases s r with h | h <;> simp [h, Run.settling, Run.pop, hf]
      | _ => simp [State.callItem, Run.settling, Run.pop, hf]

theorem emit_statuses (r : Run) : (s.emit r).1.statuses = s.statuses := by
  cases hf : r.framing with
  | tx nib k => rw [emit_tx s hf]; rfl
  | wt nib k => rw [emit_wt s hf]; rfl
  | cw => rw [emit_cw s hf]; rfl
  | idle =>
    cases ht : r.todo with
    | nil => simp [State.emit, hf, ht]
    | cons item rest =>
      rw [emit_call s hf ht]
      cases item with
      | bus => rcases callItem_bus_cases s r with h | h <;> rw [h] <;> rfl
      | _ => rfl

/-! ### The item of the event -/

/-- The run is at a later event of the byte it was sending (R28). -/
structure Run.Within (r q : Run) : Prop where
  wasByte : r.framing ≠ .idle
  byte : q.framing ≠ .idle
  op : q.op = r.op
  item : q.item = r.item
  todo : q.todo = r.todo
  later : r.framing.place.rank < q.framing.place.rank

/-- From state `s` and run `r` the event has left the item, with state `t` and run `q`. -/
structure Left (s : State) (r : Run) (t : State) (q : Run) : Prop where
  idle : q.framing = .idle
  op : q.op = r.op
  item : r.item < q.item
  onward : Onward s.bits r.todo t.bits q.todo

theorem Left.ofByte {r : Run} (hp : r.Placed) (hf : r.framing ≠ .idle) (bus : Bus) (policy : ErrPolicy) :
    Left s r (s.setBus bus) (r.byteDone policy) := by
  obtain ⟨item, rest, ht, hbyte⟩ := hp.cons
  rw [if_neg hf] at hbyte
  have hsame := apply_of_sendsByte s.bits hbyte
  have hor : r.afterByte policy = rest ∨ r.afterByte policy = rest.dropWhile Item.isGlyph := by
    unfold Run.afterByte
    rw [ht]
    split
    · exact .inr rfl
    · exact .inl rfl
  have hlen : (r.afterByte policy).length ≤ rest.length := by
    rcases hor with h | h <;> rw [h]
    exact (List.dropWhile_sublist _).length_le
  refine ⟨rfl, rfl, ?_, ?_⟩
  · simp only [Run.byteDone, ht, List.length_cons]
    omega
  · show Onward s.bits r.todo s.bits (r.afterByte policy)
    rw [ht]
    rcases hor with h | h <;> rw [h]
    · simpa [hsame] using Onward.past s.bits item rest
    · simpa [hsame] using Onward.pastMessage s.bits item rest hbyte

/-- A small step's event leaves the run at a later place of its item, or takes it out of the item (R28, R108). -/
theorem emit_moves {r : Run} (hp : r.Placed) :
    (r.Within (s.emit r).2 ∧ (s.emit r).1.bits = s.bits) ∨ Left s r (s.emit r).1 (s.emit r).2 := by
  cases hf : r.framing with
  | tx nib k =>
    rw [emit_tx s hf]
    exact .inl ⟨⟨by simp [hf], by simp, rfl, rfl, rfl, by simp [hf, Framing.place, Place.rank]⟩, rfl⟩
  | wt nib k =>
    have hne : r.framing ≠ .idle := by simp [hf]
    rw [emit_wt s hf]
    rcases r.afterWait_cases s.cfg (s.baseFrame (lowNibble r.cur)) nib k with ⟨_, _, f, heq, _, hrank⟩ | heq | heq <;>
      rw [heq]
    · exact .inl ⟨⟨hne, by simp, rfl, rfl, rfl, by rw [hf]; exact hrank⟩, rfl⟩
    · refine .inl ⟨⟨hne, by simp, rfl, rfl, rfl, ?_⟩, rfl⟩
      cases nib <;> simp [hf, Framing.place, Place.rank] <;> omega
    · exact .inr (.ofByte s hp hne _ _)
  | cw =>
    rw [emit_cw s hf]
    exact .inr (.ofByte s hp (by simp [hf]) _ _)
  | idle =>
    obtain ⟨item, rest, ht, hcalls⟩ := hp.cons
    rw [if_pos hf] at hcalls
    have leaves (t : State) (ht' : t.bits = item.apply s.bits) : Left s r t r.pop := by
      refine ⟨hf, rfl, Nat.lt_succ_self _, ?_⟩
      rw [ht', Run.pop, ht]
      exact .past s.bits item rest
    rw [emit_call s hf ht]
    right
    cases item with
    | bus =>
      rcases callItem_bus_cases s r with h | h <;> rw [h]
      · exact leaves _ rfl
      · refine ⟨hf, rfl, Nat.lt_succ_self _, ?_⟩
        rw [ht]
        exact .cannotStart s.bits rest
    | addr | release => exact leaves _ rfl
    | _ => cases hcalls

/-- Inside a byte the run stands at an event again. -/
theorem emit_placed {r : Run} (hp : r.Placed) (hf : (s.emit r).2.framing ≠ .idle) : (s.emit r).2.Placed := by
  rcases emit_moves s hp with ⟨hw, _⟩ | hl
  · refine ⟨fun he => absurd he hw.byte, fun _ => ?_⟩
    rw [hw.todo]
    exact hp.atByte hw.wasByte
  · exact absurd hl.idle hf

theorem emit_leadsOn {r : Run} (hp : r.Placed) (h : LeadsOn s.bits r.todo) :
    LeadsOn (s.emit r).1.bits (s.emit r).2.todo := by
  rcases emit_moves s hp with ⟨hw, hbits⟩ | hl
  · rwa [hbits, hw.todo]
  · exact h.onward hl.onward

/-! ## A small step moves the position forward -/

/-- After the event of a small step the operation stands at a later position, or is over and has returned its status
(R28). -/
theorem tick_advances {r : Run} (h : s.seq = some r) (hp : r.Placed) :
    (∃ q, s.tick.position = some q ∧ r.position.before q ∧ s.tick.statuses = s.statuses) ∨
      s.tick.position = none ∧ ∃ st, s.tick.statuses = s.statuses ++ [st] := by
  rw [tick_busy s h, State.tickRun, ← emit_statuses s r, State.position]
  rcases emit_moves s hp with ⟨hw, _⟩ | hl
  · rw [goOn_sending _ hw.byte]
    exact .inl ⟨_, rfl, ⟨hw.op.symm, .inr ⟨hw.item.symm, hw.later⟩⟩, rfl⟩
  · rw [goOn_idle _ hl.idle]
    rcases pass_cases (s.emit r).1 _ (s.emit r).2 hl.idle rfl with ⟨hnone, hst⟩ | ⟨hst, q, _, _, hseq, hop, hitem, _⟩
    · exact .inr ⟨by simp [hnone], _, hst⟩
    · refine .inl ⟨q.position, by simp [hseq], ⟨(hop.trans hl.op).symm, .inl ?_⟩, hst⟩
      exact Nat.lt_of_lt_of_le hl.item hitem

/-! ## A small step keeps the invariant -/

theorem noReadFrame_of_no_frames {evs : List Event} (h : txFrames evs = []) : noReadFrame evs := by
  simp [noReadFrame, h]

theorem Run.fires_write {cfg : Config} {r : Run} {ev : Event} (h : r.fires cfg ev) (hd : r.Driven cfg) :
    noReadFrame [ev] := by
  unfold Run.fires at h
  split at h
  · rcases h with ⟨ok, rfl⟩ | ⟨a, rfl⟩ | rfl <;> exact noReadFrame_of_no_frames rfl
  · next nib k hf =>
    obtain ⟨st, rfl⟩ := h
    have hbit := hd.frameWrites nib k (.inl hf)
    intro f hmem
    obtain rfl : f = r.frame k := by simpa [txFrames] using hmem
    unfold Run.frame
    split
    · exact enable_write_bit _ hbit
    · exact hbit
  · exact noReadFrame_of_no_frames (h ▸ rfl)
  · exact noReadFrame_of_no_frames (h ▸ rfl)

/-- The settling delay that the trace of a state still lacks. -/
def State.pending (s : State) : List Event := if s.awaitingSettle then [.wait s.cfg.tSettle] else []

theorem pending_of_settling {r : Run} (h : s.seq = some r) (hr : r.settling) : s.pending = [.wait s.cfg.tSettle] :=
  if_pos ((awaitingSettle_iff s).mpr ⟨r, h, hr⟩)

theorem pending_of_not_settling (h : ∀ r, s.seq = some r → ¬ r.settling) : s.pending = [] :=
  if_neg fun ha => by
    obtain ⟨r, hseq, hr⟩ := (awaitingSettle_iff s).mp ha
    exact h r hseq hr

theorem tick_trace {r : Run} (h : s.seq = some r) (hp : r.Placed) :
    ∃ ev, r.fires s.cfg ev ∧ s.tick.bus.trace = s.bus.trace ++ [ev] := by
  rw [tick_busy s h, State.tickRun, goOn_bus]
  rcases emit_event s r with ⟨ev, hfires, htrace, _⟩ | ⟨hnot, _⟩
  · exact ⟨ev, hfires, htrace⟩
  · exact absurd hp hnot

theorem tick_pending {r : Run} (h : s.seq = some r) :
    ((∃ nib k, r.framing = .tx nib k) → s.tick.pending = [.wait s.cfg.tSettle]) ∧
      ((∀ nib k, r.framing ≠ .tx nib k) → s.tick.pending = []) := by
  obtain ⟨_, _, hcfg, _⟩ := tick_setting s
  have hiff : s.tick.awaitingSettle = true ↔ ∃ nib k, r.framing = .tx nib k := by
    rw [tick_busy s h, State.tickRun, goOn_awaitingSettle, emit_settling]
  rw [State.pending, hcfg]
  refine ⟨fun ht => if_pos (hiff.mpr ht), fun ht => if_neg fun ha => ?_⟩
  obtain ⟨nib, k, hf⟩ := hiff.mp ha
  exact ht nib k hf

/-- A small step keeps every frame followed by its settling delay: a frame makes the delay pending, and the next event is
that delay (R101, R185). -/
theorem tick_paced {r : Run} (h : s.seq = some r) (hp : r.Placed)
    (hpaced : paced s.cfg.tSettle (s.bus.trace ++ s.pending) = true) :
    paced s.cfg.tSettle (s.tick.bus.trace ++ s.tick.pending) = true := by
  obtain ⟨ev, hfires, htrace⟩ := tick_trace s h hp
  obtain ⟨hsent, hnotSent⟩ := tick_pending s h
  rw [htrace]
  by_cases hset : r.settling
  · obtain ⟨nib, k, hf⟩ := hset
    obtain rfl : ev = .wait s.cfg.tSettle := by simpa [Run.fires, hf] using hfires
    rw [hnotSent (by simp [hf]), List.append_nil]
    rwa [pending_of_settling s h ⟨nib, k, hf⟩] at hpaced
  · rw [pending_of_not_settling s (by simpa [h] using hset), List.append_nil] at hpaced
    rw [List.append_assoc, paced_append _ _ _ hpaced]
    cases hf : r.framing with
    | wt nib k => exact absurd ⟨nib, k, hf⟩ hset
    | tx nib k =>
      obtain ⟨st, rfl⟩ : ∃ st, ev = .tx (r.frame k) st := by simpa [Run.fires, hf] using hfires
      simp [hsent ⟨nib, k, hf⟩, paced]
    | idle =>
      have hev : (∃ ok, ev = .began ok) ∨ (∃ a, ev = .setAddr a) ∨ ev = .ended := by
        simpa only [Run.fires, hf] using hfires
      rw [hnotSent (by simp [hf])]
      rcases hev with ⟨ok, rfl⟩ | ⟨a, rfl⟩ | rfl <;> rfl
    | cw =>
      obtain rfl : ev = .wait s.cfg.tCmd := by simpa [Run.fires, hf] using hfires
      rw [hnotSent (by simp [hf])]
      rfl

theorem tick_idle (h : s.seq = none) : s.tick = s := by
  simp [State.tick, h]

/-- A small step keeps the invariant: the event keeps what holds of the operation, and so does going on. -/
theorem tick_inv (h : s.Inv) : s.tick.Inv := by
  cases hseq : s.seq with
  | none => rwa [tick_idle s hseq]
  | some r =>
    obtain ⟨hlist, hp, hd⟩ := (r.sound_iff s).mp (h.soundWhenBusy r hseq)
    obtain ⟨hrw, _, hcfg, _⟩ := tick_setting s
    obtain ⟨hrw', _, hcfg', _⟩ := emit_setting s r
    have hsound := goOn_sound (s.emit r).1 (s.emit r).2 (hrw'.trans h.writeOnly) (emit_leadsOn s hp hlist)
      (hcfg' ▸ emit_driven s h.writeOnly hd) (emit_placed s hp)
    rw [← State.tickRun, ← tick_busy s hseq] at hsound
    obtain ⟨ev, hfires, htrace⟩ := tick_trace s hseq hp
    refine ⟨hrw.trans h.writeOnly, ?_, ?_, hsound.1, hsound.2⟩
    · rw [htrace]
      exact (noReadFrame_append _ _).mpr ⟨h.framesWrite, Run.fires_write hfires hd⟩
    · rw [hcfg]
      have := tick_paced s hseq hp h.framesPaced
      rwa [State.pending, hcfg] at this

/-! ## What the whole instructions add to the trace -/

theorem paced_cutFrames (settle : Micros) (fs : List Byte) (k : Nat) (st : Int) :
    paced settle (cutFrames settle fs k st) = true := by
  rw [cutFrames, paced_append _ _ _ (paced_acceptedFrames settle _)]
  cases fs[k]? <;> simp [paced]

/-- The trace of `t` is that of `s` with events added: paced ones, and none a read frame if the state writes. -/
def State.Adds (s t : State) : Prop :=
  ∃ evs, t.bus.trace = s.bus.trace ++ evs ∧ paced s.cfg.tSettle evs = true ∧ (s.readWrite = .write → noReadFrame evs)

/-- What the body of an instruction leaves unchanged, and that it only extends the trace. -/
structure State.Extends (s t : State) : Prop where
  fixed : t.fixed = s.fixed
  primResult : t.primResult = s.primResult
  adds : s.Adds t

theorem State.Extends.fields {s t : State} (h : s.Extends t) : t.readWrite = s.readWrite ∧ t.seq = s.seq ∧
    t.inputs = s.inputs ∧ t.cfg = s.cfg ∧ t.granularity = s.granularity := by
  simpa only [State.fixed, Prod.mk.injEq] using h.fixed

theorem State.Extends.readWrite {s t : State} (h : s.Extends t) : t.readWrite = s.readWrite := by
  obtain ⟨hrw, _⟩ := h.fields
  exact hrw

theorem State.Extends.cfg {s t : State} (h : s.Extends t) : t.cfg = s.cfg := by
  obtain ⟨_, _, _, hcfg, _⟩ := h.fields
  exact hcfg

theorem State.Extends.refl (s : State) : s.Extends s :=
  ⟨rfl, rfl, [], by simp, rfl, fun _ => noReadFrame_of_no_frames rfl⟩

theorem State.Extends.trans {s t u : State} (h : s.Extends t) (h' : t.Extends u) : s.Extends u := by
  refine ⟨h'.fixed.trans h.fixed, h'.primResult.trans h.primResult, ?_⟩
  obtain ⟨evs, htrace, hpaced, hwrite⟩ := h.adds
  obtain ⟨evs', htrace', hpaced', hwrite'⟩ := h'.adds
  rw [h.cfg] at hpaced'
  rw [h.readWrite] at hwrite'
  refine ⟨evs ++ evs', by rw [htrace', htrace, List.append_assoc], ?_, fun hw => ?_⟩
  · rw [paced_append _ _ _ hpaced, hpaced']
  · exact (noReadFrame_append _ _).mpr ⟨hwrite hw, hwrite' hw⟩

/-- Frames sent to the end or to a failing one, each with its delay. -/
theorem extends_frames (n : Nat) {fs : List Byte} {evs : List Event}
    (hevs : evs = acceptedFrames s.cfg.tSettle fs ∨ ∃ k st, evs = cutFrames s.cfg.tSettle fs k st)
    (hfs : s.readWrite = .write → ∀ f ∈ fs, f.getLsbD 1 = false) : s.Extends (s.setBus (s.bus.after n evs)) := by
  refine ⟨rfl, rfl, evs, rfl, ?_, fun hw f hf => hfs hw f ?_⟩
  · rcases hevs with rfl | ⟨k, st, rfl⟩
    · exact paced_acceptedFrames _ fs
    · exact paced_cutFrames _ fs k st
  · rcases hevs with rfl | ⟨k, st, rfl⟩
    · rwa [txFrames_acceptedFrames] at hf
    · rw [txFrames_cutFrames] at hf
      rcases List.mem_append.mp hf with hf | hf
      · exact List.mem_of_mem_take hf
      · exact List.mem_of_getElem? (by simpa using hf)

theorem extends_frame (f : Byte) (hf : f.getLsbD 1 = false) : s.Extends (s.frame f).2 := by
  rw [State.frame, sendFrame_eq]
  exact extends_frames s 1 (fs := [f]) (.inr ⟨0, _, rfl⟩) fun _ g hg => by rwa [List.mem_singleton.mp hg]

theorem frameBits_write_bit : ∀ (nibble : Nibble) (bl en rs : Bool),
    (frameBits nibble bl en false rs).getLsbD 1 = false := by
  decide

theorem extends_writeNibble (n : Byte) : s.Extends (s.writeNibble n).2 := by
  have hfs (hw : s.readWrite = .write) : ∀ f ∈ nibbleFrames (s.baseFrame n), f.getLsbD 1 = false := fun f hf => by
    rw [← baseFrame_low_nibble] at hf
    exact byteFrames_write_bit s hw n f (List.mem_append_right _ hf)
  rw [writeNibble_eq]
  rcases pulse_cases s.bus s.cfg.tSettle (s.baseFrame n) with ⟨_, h⟩ | ⟨k, _, _, _, h⟩ <;> rw [h]
  · exact extends_frames s 3 (.inl rfl) hfs
  · exact extends_frames s (k + 1) (.inr ⟨k, _, rfl⟩) hfs

theorem extends_writeByte (code : Byte) : s.Extends (s.writeByte code).2 := by
  rcases writeByte_cases s code with ⟨_, h⟩ | ⟨k, _, _, _, h⟩ <;> rw [h]
  · exact extends_frames s 6 (.inl rfl) fun hw => byteFrames_write_bit s hw code
  · exact extends_frames s (k + 1) (.inr ⟨k, _, rfl⟩) fun hw => byteFrames_write_bit s hw code

theorem extends_cmdByte (b : Byte) : s.Extends (s.cmdByte b).2 :=
  (extends_writeByte s b).trans ⟨rfl, rfl, _, rfl, rfl, fun _ => noReadFrame_of_no_frames rfl⟩

theorem extends_sendText (text : List Byte) : s.Extends (s.sendText text).2 := by
  induction text generalizing s with
  | nil => exact .refl s
  | cons c rest ih =>
    by_cases hc : c = 0
    · subst hc
      rw [sendText_null]
      exact .refl s
    · rw [sendText_cons s hc]
      split
      · exact extends_writeByte s _
      · exact (extends_writeByte s _).trans (ih _)

/-- Writing the three fields does not touch the trace. -/
theorem State.Extends.ofBus {s t : State} (hfixed : t.fixed = s.fixed) (hprim : t.primResult = s.primResult)
    (hbus : t.bus = s.bus) : s.Extends t :=
  ⟨hfixed, hprim, [], by simp [hbus], rfl, fun _ => noReadFrame_of_no_frames rfl⟩

theorem extends_setPhase (p : Phase) : s.Extends (s.setPhase p) := .ofBus rfl rfl rfl

theorem extends_setBacklight (v : Bool) : s.Extends (s.setBacklight v) := .ofBus rfl rfl rfl

theorem extends_setRegisterSelect (v : RegisterSelect) : s.Extends (s.setRegisterSelect v) := .ofBus rfl rfl rfl

theorem extends_msgBody (text : List Byte) : s.Extends (s.msgBody text).2 :=
  (extends_setRegisterSelect s .character).trans (extends_sendText _ text)

theorem extends_command (b : Byte) : s.Extends ((s.setRegisterSelect .command).cmdByte b).2 :=
  (extends_setRegisterSelect s .command).trans (extends_cmdByte _ b)

theorem extends_joinThen {r : Status × State} {k : State → Status × State} (h : s.Extends r.2)
    (hk : ∀ u : State, u.Extends (k u).2) : s.Extends (State.joinThen r k).2 := h.trans (hk r.2)

theorem extends_enterFourBit : s.Extends s.enterFourBit.2 := by
  have hset : s.Extends (s.setBus (s.bus.callSetAddress s.cfg.i2cAddr)) :=
    ⟨rfl, rfl, _, rfl, rfl, fun _ => noReadFrame_of_no_frames rfl⟩
  exact ((hset.trans (extends_setRegisterSelect _ .command)).trans
    (extends_joinThen _ (extends_cmdByte _ _) fun u => extends_cmdByte u _)).trans (extends_setPhase _ .fourBitMode)

theorem extends_configure : s.Extends s.configure.2 := by
  have hbytes : s.Extends _ := extends_joinThen s (extends_cmdByte s s.cfg.cmdDispoff) fun u =>
    extends_joinThen u (extends_cmdByte u u.cfg.cmdClear) fun u =>
      extends_joinThen u (extends_cmdByte u u.cfg.cmdEntry) fun u => extends_cmdByte u u.cfg.cmdDispon
  exact hbytes.trans (extends_setPhase _ .configured)

theorem extends_selftest : s.Extends s.selftest.2 :=
  ((extends_setBacklight s true).trans (extends_msgBody _ _)).trans (extends_setPhase _ .ready)

/-- INIT's body if `T.begin()` answers `false` (R120, R121). -/
theorem initBody_cannotStart (h : s.bus.beginAnswer 0 = false) :
    s.initBody.2 = (s.setBus s.bus.callBegin.2).setPhase .failed := by
  simp [State.initBody, h]

/-- INIT's body if `T.begin()` answers `true`: the three parts in their order (R120, R126). -/
theorem initBody_starts (h : s.bus.beginAnswer 0 = true) :
    s.initBody.2 = ((s.setBus s.bus.callBegin.2).setPhase .busReady).enterFourBit.2.configure.2.selftest.2 := by
  simp [State.initBody, State.joinThen, h]

theorem extends_initBody : s.Extends s.initBody.2 := by
  have hbegin : s.Extends (s.setBus s.bus.callBegin.2) :=
    ⟨rfl, rfl, _, rfl, rfl, fun _ => noReadFrame_of_no_frames rfl⟩
  cases h : s.bus.beginAnswer 0 with
  | false =>
    rw [initBody_cannotStart s h]
    exact hbegin.trans (extends_setPhase _ .failed)
  | true =>
    rw [initBody_starts s h]
    exact (((hbegin.trans (extends_setPhase _ .busReady)).trans (extends_enterFourBit _)).trans
      (extends_configure _)).trans (extends_selftest _)

theorem extends_teardownBody : s.Extends s.teardownBody.2 :=
  ⟨rfl, rfl, [.ended], rfl, rfl, fun _ => noReadFrame_of_no_frames rfl⟩

theorem extends_operate {need : Phase} {body : State → Status × State} (h : s.Extends (body s).2) :
    s.Extends (s.operate need body) := by
  unfold State.operate
  split
  · exact ⟨h.fixed, h.primResult, h.adds⟩
  · exact .ofBus rfl rfl rfl

/-- A frame in read mode has no next state (R63). -/
theorem exec_frameRwSet_ne_next (nibble : Nibble) (bl en rs : Bool) (t : State) :
    exec (.frameRwSet nibble bl en rs) s ≠ .next t := by
  rw [show exec (.frameRwSet nibble bl en rs) s = .refused .readModeUnsupported from rfl]
  simp

theorem forall_next {P : State → Prop} {o : State} (ho : P o) :
    ∀ u, (.next o : Host.Outcome State Fault Refusal) = .next u → P u :=
  fun _ hu => Host.Outcome.next.inj hu ▸ ho

theorem adds_runPrimitive {body : State → Status × State} (h : s.Extends (body s).2) : s.Adds (s.runPrimitive body) :=
  h.adds

/-- Every instruction that answers a next state only adds to the trace. -/
theorem exec_adds {i : Instr} {t : State} (h : exec i s = .next t) : s.Adds t := by
  suffices h' : ∀ u, exec i s = .next u → s.Adds u from h' t h
  cases i with
  | frameRwSet nibble bl en rs => exact fun u hu => absurd hu (exec_frameRwSet_ne_next s nibble bl en rs u)
  | init arg => exact forall_next (extends_operate s (extends_initBody s)).adds
  | msg arg text => exact forall_next (extends_operate s (extends_msgBody s text)).adds
  | clear arg | home arg => exact forall_next (extends_operate s (extends_command s _)).adds
  | goto pos =>
    refine forall_next (extends_operate s ?_).adds
    split
    · exact extends_command s _
    · exact .refl s
  | teardown arg => exact forall_next (extends_operate s (extends_teardownBody s)).adds
  | reserved6 arg | reserved7 arg => exact forall_next (State.Extends.refl s).adds
  | frameEnLow nibble bl rs | frameEnHigh nibble bl rs =>
    exact forall_next (adds_runPrimitive s (extends_frame s _ (frameBits_write_bit ..)))
  | lcdFourbit | lcdFuncset | lcdDispoff | lcdClear | lcdEntry | lcdDispon | lcdHome =>
    exact forall_next (adds_runPrimitive s (extends_cmdByte s _))
  | lcdSetddram addr => exact forall_next (adds_runPrimitive s (extends_cmdByte s _))
  | glyph g => exact forall_next (adds_runPrimitive s (extends_writeByte s g))
  | encode c => exact forall_next (State.Extends.refl s).adds
  | writeNibble n => exact forall_next (adds_runPrimitive s (extends_writeNibble s n))
  | writeByte code => exact forall_next (adds_runPrimitive s (extends_writeByte s code))
  | cmdByte b => exact forall_next (adds_runPrimitive s (extends_cmdByte s b))

/-! ## What the whole instructions do to the three fields -/

theorem runPrimitive_bits {body : State → Status × State} (h : (body s).2.bits = s.bits) :
    (s.runPrimitive body).bits = s.bits := h

/-- A row that is no host operation writes none of the three fields (R100). -/
theorem exec_bits_of_not_host {i : Instr} {t : State} (hi : i.isHost = false) (h : exec i s = .next t) :
    t.bits = s.bits := by
  suffices h' : ∀ u, exec i s = .next u → u.bits = s.bits from h' t h
  have hcmd (b : Byte) : (s.cmdByte b).2.bits = s.bits := by rw [cmdByte_state, setBus_bits]
  have hbyte (b : Byte) : (s.writeByte b).2.bits = s.bits := by rw [writeByte_state, setBus_bits]
  cases i with
  | init | msg | clear | home | goto | teardown | reserved6 | reserved7 => cases hi
  | frameRwSet nibble bl en rs => exact fun u hu => absurd hu (exec_frameRwSet_ne_next s nibble bl en rs u)
  | frameEnLow nibble bl rs | frameEnHigh nibble bl rs => exact forall_next (runPrimitive_bits s rfl)
  | lcdFourbit | lcdFuncset | lcdDispoff | lcdClear | lcdEntry | lcdDispon | lcdHome =>
    exact forall_next (runPrimitive_bits s (hcmd _))
  | lcdSetddram addr => exact forall_next (runPrimitive_bits s (hcmd _))
  | glyph g => exact forall_next (runPrimitive_bits s (hbyte g))
  | encode c => exact forall_next rfl
  | writeNibble n => exact forall_next (runPrimitive_bits s rfl)
  | writeByte code => exact forall_next (runPrimitive_bits s (hbyte code))
  | cmdByte b => exact forall_next (runPrimitive_bits s (hcmd b))

/-! ### Admission -/

/-- The operations that are admitted, each with the check it has passed (R141, R142). -/
inductive Admitted (s : State) : Instr → Prop
  | init (arg : Byte) (h : s.phase = .uninitialized) : Admitted s (.init arg)
  | msg (arg : Byte) (text : List Byte) (h : s.phase = .ready) : Admitted s (.msg arg text)
  | clear (arg : Byte) (h : s.phase = .ready) : Admitted s (.clear arg)
  | home (arg : Byte) (h : s.phase = .ready) : Admitted s (.home arg)
  | goto (pos : Byte) (h : s.phase = .ready) (hpos : posInRange s.cfg pos = true) : Admitted s (.goto pos)
  | teardown (arg : Byte) (h : s.phase = .ready) : Admitted s (.teardown arg)

theorem admitted_of_admission {i : Instr} (h : s.admission i = none) : Admitted s i := by
  cases i with
  | init arg => exact .init arg (by simpa [State.admission] using h)
  | msg arg text => exact .msg arg text (by simpa [State.admission] using h)
  | clear arg => exact .clear arg (by simpa [State.admission] using h)
  | home arg => exact .home arg (by simpa [State.admission] using h)
  | teardown arg => exact .teardown arg (by simpa [State.admission] using h)
  | goto pos =>
    by_cases hphase : s.phase = .ready
    · exact .goto pos hphase (by simpa [State.admission, hphase] using h)
    · simp [State.admission, hphase] at h
  | _ => cases h

theorem operate_admitted {need : Phase} (body : State → Status × State) (h : s.phase = need) :
    s.operate need body = (body s).2.respond (body s).1 := if_pos h

theorem operate_refused {need : Phase} (body : State → Status × State) (h : s.phase ≠ need) :
    s.operate need body = s.respond .errState := if_neg h

/-- A host word that admission refuses is answered with admission's status, and that is all (R140, R160). -/
theorem exec_refused {i : Instr} {st : Status} (hi : i.isHost = true) (h : s.admission i = some st) :
    exec i s = .next (s.respond st) := by
  have outside {need : Phase} (body : State → Status × State)
      (h : (if s.phase = need then none else some .errState) = some st) : s.operate need body = s.respond st := by
    obtain ⟨hphase, rfl⟩ : s.phase ≠ need ∧ .errState = st := by simpa using h
    exact operate_refused s body hphase
  cases i with
  | init arg => exact congrArg _ (outside _ h)
  | msg arg text => exact congrArg _ (outside _ h)
  | clear arg | home arg | teardown arg => exact congrArg _ (outside _ h)
  | reserved6 arg | reserved7 arg => cases h; rfl
  | goto pos =>
    refine congrArg Host.Outcome.next ?_
    by_cases hphase : s.phase = .ready
    · obtain ⟨hpos, rfl⟩ : ¬ posInRange s.cfg pos = true ∧ .errRange = st := by simpa [State.admission, hphase] using h
      rw [operate_admitted s _ hphase]
      simp [hpos]
    · obtain rfl : .errState = st := by simpa [State.admission, hphase] using h
      exact operate_refused s _ hphase
  | _ => cases hi

/-- The fields that an admitted operation ends with: those its item list leads to, unless the transport cannot start
(R35, R121). -/
def State.bitsAfter (i : Instr) (s : State) : Bits :=
  match i, s.bus.beginAnswer 0 with
  | .init _, false => (.failed, s.backlightOn, s.registerSelect)
  | _, _ => (itemList s.cfg i).foldl Item.apply s.bits

theorem foldl_apply_gbytes (text : List Byte) (b : Bits) : (text.map Item.gbyte).foldl Item.apply b = b :=
  foldl_apply_glyphs b fun x hx => by
    obtain ⟨c, _, rfl⟩ := List.mem_map.mp hx
    rfl

/-- INIT's items lead to `Ready` (R130). -/
theorem foldl_apply_init (cfg : Config) (arg : Byte) (b : Bits) :
    (itemList cfg (.init arg)).foldl Item.apply b = (.ready, true, .character) := by
  simp [itemList, Item.apply, foldl_apply_gbytes]

theorem bitsAfter_cannotStart (arg : Byte) (h : s.bus.beginAnswer 0 = false) :
    s.bitsAfter (.init arg) = (.failed, s.backlightOn, s.registerSelect) := by
  simp [State.bitsAfter, h]

theorem bitsAfter_starts (arg : Byte) (h : s.bus.beginAnswer 0 = true) :
    s.bitsAfter (.init arg) = (.ready, true, .character) := by
  simp [State.bitsAfter, h, foldl_apply_init]

theorem foldl_apply_msg (cfg : Config) (arg : Byte) (text : List Byte) (b : Bits) :
    (itemList cfg (.msg arg text)).foldl Item.apply b = (b.1, b.2.1, .character) := foldl_apply_gbytes _ _

theorem initBody_bits_of_starts (h : s.bus.beginAnswer 0 = true) : s.initBody.2.bits = (.ready, true, .character) := by
  rw [initBody_starts s h]
  obtain ⟨bus, hself⟩ := selftest_unchanged ((s.setBus s.bus.callBegin.2).setPhase .busReady).enterFourBit.2.configure.2
  rw [hself]
  rfl

/-- An admitted operation run whole ends with the fields of `bitsAfter`, whatever the writes answer (R35, R126). -/
theorem exec_admitted {i : Instr} (h : s.admission i = none) : ∃ t, exec i s = .next t ∧ t.bits = s.bitsAfter i := by
  have hcmd (b : Byte) : ((s.setRegisterSelect .command).cmdByte b).2.bits = (s.phase, s.backlightOn, .command) := by
    rw [cmdByte_state]
    rfl
  cases admitted_of_admission s h with
  | init arg hphase =>
    refine ⟨_, rfl, ?_⟩
    rw [operate_admitted s _ hphase, respond_bits]
    cases hb : s.bus.beginAnswer 0 with
    | false =>
      rw [initBody_cannotStart s hb, bitsAfter_cannotStart s arg hb]
      rfl
    | true => rw [initBody_bits_of_starts s hb, bitsAfter_starts s arg hb]
  | msg arg text hphase =>
    refine ⟨_, rfl, ?_⟩
    rw [operate_admitted s _ hphase, respond_bits, State.msgBody, sendText_state, State.bitsAfter, foldl_apply_msg]
    · rfl
    · exact nofun
  | clear arg hphase | home arg hphase =>
    refine ⟨_, rfl, ?_⟩
    rw [operate_admitted s _ hphase, respond_bits, hcmd]
    rfl
  | goto pos hphase hpos =>
    refine ⟨_, rfl, ?_⟩
    rw [operate_admitted s _ hphase, respond_bits, if_pos hpos, hcmd]
    rfl
  | teardown arg hphase =>
    refine ⟨_, rfl, ?_⟩
    rw [operate_admitted s _ hphase]
    rfl

/-- From between operations the items of an admitted operation lead between operations again. -/
theorem leadsOn_itemList {i : Instr} (hq : s.bits.quiet) (h : s.admission i = none) :
    LeadsOn s.bits (itemList s.cfg i) := by
  cases admitted_of_admission s h with
  | init arg hphase =>
    refine ⟨by rw [foldl_apply_init]; rfl, by simp [itemList], fun _ => ?_⟩
    rwa [State.bits, hphase] at hq
  | msg arg text hphase =>
    rw [State.bits, hphase] at hq
    refine ⟨?_, by simp [itemList], by simp [itemList]⟩
    rw [foldl_apply_msg, State.bits, hphase]
    exact hq
  | clear arg hphase | home arg hphase =>
    rw [State.bits, hphase] at hq ⊢
    exact ⟨hq, by simp [itemList], by simp [itemList]⟩
  | goto pos hphase hpos =>
    rw [State.bits, hphase] at hq ⊢
    exact ⟨hq, by simp [itemList], by simp [itemList]⟩
  | teardown arg hphase => exact ⟨⟨rfl, rfl⟩, by simp [itemList], by simp [itemList]⟩

theorem bitsAfter_quiet {i : Instr} (hq : s.bits.quiet) (h : s.admission i = none) : (s.bitsAfter i).quiet := by
  have hlist := leadsOn_itemList s hq h
  unfold State.bitsAfter
  split
  · exact hlist.beginAtReset rfl
  · exact hlist.toQuiet

/-! ### `Failed` -/

/-- Admission refuses every operation in `Failed` (R24, R141). -/
theorem admission_of_failed (i : Instr) (h : s.phase = .failed) :
    ∃ st, s.admission i = some st ∧ (st = .errState ∨ st = .errIllegal) := by
  cases i <;> simp [State.admission, h]

theorem exec_failed {i : Instr} {t : State} (h : s.phase = .failed) (hexec : exec i s = .next t) :
    t.phase = .failed := by
  cases hi : i.isHost with
  | false => rw [← h]; exact congrArg (·.1) (exec_bits_of_not_host s hi hexec)
  | true =>
    obtain ⟨st, hadm, _⟩ := admission_of_failed s i h
    obtain rfl := Host.Outcome.next.inj ((exec_refused s hi hadm).symm.trans hexec)
    exact h

/-! ## A step keeps the invariant -/

/-- The invariant speaks of the fields, the parameters, the sequencer and the trace alone. -/
theorem State.Inv.congr {s t : State} (h : s.Inv) (hrw : t.readWrite = s.readWrite) (hcfg : t.cfg = s.cfg)
    (hseq : t.seq = s.seq) (hbits : t.bits = s.bits) (htrace : t.bus.trace = s.bus.trace) : t.Inv where
  writeOnly := hrw.trans h.writeOnly
  framesWrite := htrace ▸ h.framesWrite
  framesPaced := by
    rw [htrace, hcfg, show t.awaitingSettle = s.awaitingSettle by rw [State.awaitingSettle, State.awaitingSettle, hseq]]
    exact h.framesPaced
  quietWhenIdle hidle := by
    rw [hbits]
    exact h.quietWhenIdle (hseq ▸ hidle)
  soundWhenBusy r hr := by
    rw [hseq] at hr
    have := (r.sound_iff s).mp (h.soundWhenBusy r hr)
    rwa [Run.sound_iff, hbits, hcfg]

theorem setInputs_inv (is : List Input) (h : s.Inv) : (s.setInputs is).Inv := h.congr rfl rfl rfl rfl rfl

theorem respond_inv (st : Status) (h : s.Inv) : (s.respond st).Inv := h.congr rfl rfl rfl rfl rfl

theorem awaitingSettle_of_idle (h : s.seq = none) : s.awaitingSettle = false := by
  rw [State.awaitingSettle, h]

theorem hardReset_inv : s.hardReset.Inv where
  writeOnly := rfl
  framesWrite := noReadFrame_of_no_frames (by simp [txFrames])
  framesPaced := by simp [awaitingSettle_of_idle s.hardReset rfl, paced]
  quietWhenIdle _ := ⟨rfl, rfl⟩
  soundWhenBusy := by simp

/-- Accepting a command keeps the invariant: it is refused, or its item list leads between operations (R34, R140). -/
theorem accept_inv (i : Instr) (hidle : s.seq = none) (h : s.Inv) : (s.accept i).Inv := by
  unfold State.accept
  split
  · exact respond_inv s _ h
  · next hadm =>
    have hquiet := h.quietWhenIdle hidle
    have hdriven : (Run.begin i (itemList s.cfg i)).Driven s.cfg := ⟨fun _ _ h => h.elim nofun nofun, rfl⟩
    obtain ⟨hq, hs⟩ := goOn_sound s (.begin i (itemList s.cfg i)) h.writeOnly (leadsOn_itemList s hquiet hadm) hdriven
      (fun hf => absurd rfl hf)
    obtain ⟨hrw, _, hcfg, _⟩ := goOn_setting s (.begin i (itemList s.cfg i))
    have hnot : (s.goOn (.begin i (itemList s.cfg i))).awaitingSettle = false := by
      rw [Bool.eq_false_iff, ne_eq, goOn_awaitingSettle]
      rintro ⟨nib, k, hf⟩
      cases hf
    refine ⟨hrw.trans h.writeOnly, by rw [goOn_bus]; exact h.framesWrite, ?_, hq, hs⟩
    rw [goOn_bus, hcfg, hnot, ← awaitingSettle_of_idle s hidle]
    exact h.framesPaced

theorem exec_quiet {i : Instr} {t : State} (hq : s.bits.quiet) (h : exec i s = .next t) : t.bits.quiet := by
  cases hi : i.isHost with
  | false => rwa [exec_bits_of_not_host s hi h]
  | true =>
    cases hadm : s.admission i with
    | some st =>
      obtain rfl := Host.Outcome.next.inj ((exec_refused s hi hadm).symm.trans h)
      exact hq
    | none =>
      obtain ⟨u, hu, hbits⟩ := exec_admitted s hadm
      obtain rfl := Host.Outcome.next.inj (hu.symm.trans h)
      rw [hbits]
      exact bitsAfter_quiet s hq hadm

/-- A whole instruction of an idle block keeps the invariant. -/
theorem exec_inv {i : Instr} {t : State} (hidle : s.seq = none) (h : s.Inv) (hexec : exec i s = .next t) : t.Inv := by
  have hfixed := exec_fixed s hexec
  simp only [State.fixed, Prod.mk.injEq] at hfixed
  obtain ⟨hrw, hseq, _, hcfg, _⟩ := hfixed
  rw [hidle] at hseq
  obtain ⟨evs, htrace, hpaced, hwrite⟩ := exec_adds s hexec
  refine ⟨hrw.trans h.writeOnly, ?_, ?_, fun _ => exec_quiet s (h.quietWhenIdle hidle) hexec, by simp [hseq]⟩
  · rw [htrace]
    exact (noReadFrame_append _ _).mpr ⟨h.framesWrite, hwrite h.writeOnly⟩
  · have hbefore := h.framesPaced
    rw [awaitingSettle_of_idle s hidle] at hbefore
    rw [awaitingSettle_of_idle t hseq, hcfg, htrace]
    simp only [Bool.false_eq_true, if_false, List.append_nil] at hbefore ⊢
    rw [paced_append _ _ _ hbefore, hpaced]

/-! ### What a fetch says of the block and its inputs -/

theorem fetch_of_busy {r : Run} (h : s.seq = some r) :
    s.fetch = .busy ∨ ∃ rest, s.fetch = .reset rest ∨ s.fetch = .pause rest := by
  have hbusy : s.busy = true := by simp [State.busy, h]
  unfold State.fetch
  cases s.inputs with
  | nil => simp [hbusy]
  | cons input rest => cases input <;> simp [hbusy, fetchWhenBusy]

/-- A command or an inner row is taken up by an idle block only (R30, R70). -/
theorem idle_of_fetch {i : Instr} {rest : List Input} (h : s.fetch = .command i rest ∨ s.fetch = .inner i rest) :
    s.seq = none := by
  cases hseq : s.seq with
  | none => rfl
  | some r => rcases fetch_of_busy s hseq with h' | ⟨_, h' | h'⟩ <;> simp [h'] at h

theorem reset_of_fetchInput {input : Input} {rest more : List Input} (h : fetchInput more input = .reset rest) :
    input = .reset ∧ more = rest := by
  cases input with
  | reset => exact ⟨rfl, Fetched.reset.inj h⟩
  | inner b v => cases hd : decode b [v] <;> simp [fetchInput, hd] at h
  | _ => cases h

theorem reset_of_fetchWhenBusy {input : Input} {rest more : List Input} (h : fetchWhenBusy more input = .reset rest) :
    input = .reset ∧ more = rest := by
  cases input with
  | reset => exact ⟨rfl, Fetched.reset.inj h⟩
  | _ => cases h

theorem inputs_of_fetch_reset {rest : List Input} (h : s.fetch = .reset rest) : s.inputs = .reset :: rest := by
  unfold State.fetch at h
  split at h
  · split at h <;> cases h
  · next input more hinputs =>
    have hreset : input = .reset ∧ more = rest := by
      split at h
      · exact reset_of_fetchWhenBusy h
      · exact reset_of_fetchInput h
    rw [hinputs, hreset.1, hreset.2]

/-! ## The phases of an INIT -/

/-- The phases at the events of the items still to do, and at the end of the list. -/
def eventPhases (b : Bits) : List Item → List Phase
  | [] => [b.1]
  | item :: rest =>
    if item.silent then eventPhases (item.apply b) rest else b.1 :: eventPhases (item.apply b) rest

/-- One move of the phase of an INIT with a self-test text (R24, R121 to R125). -/
def InitMove (text : List Byte) (p q : Phase) : Prop :=
  q = p ∨ (p, q) ∈
      [(Phase.uninitialized, Phase.busReady), (.uninitialized, .failed), (.busReady, .fourBitMode),
        (.fourBitMode, .configured), (.configured, .ready)] ∨
    text = [] ∧ p = .fourBitMode ∧ q = .ready

theorem eventPhases_passed {passed : List Item} (b : Bits) (rest : List Item) (h : ∀ x ∈ passed, x.silent = true) :
    eventPhases b (passed ++ rest) = eventPhases (passed.foldl Item.apply b) rest := by
  induction passed generalizing b with
  | nil => rfl
  | cons x xs ih =>
    obtain ⟨hx, hxs⟩ := List.forall_mem_cons.mp h
    rw [List.cons_append, eventPhases, if_pos hx, ih _ hxs]
    rfl

theorem eventPhases_event (b : Bits) {item : Item} (rest : List Item) (h : item.silent = false) :
    eventPhases b (item :: rest) = b.1 :: eventPhases (item.apply b) rest := by
  rw [eventPhases, if_neg (by simp [h])]

/-- Leaving out the glyph bytes at the head leaves out moves that stay. -/
theorem isChain_dropGlyphs {text : List Byte} {b : Bits} {items : List Item}
    (h : (b.1 :: eventPhases b items).IsChain (InitMove text)) :
    (b.1 :: eventPhases b (items.dropWhile Item.isGlyph)).IsChain (InitMove text) := by
  induction items with
  | nil => exact h
  | cons item rest ih =>
    cases item with
    | gbyte c => exact ih (List.IsChain.tail h)
    | _ => exact h

/-- The items still to do of an INIT take the phase along its moves, and `BEGIN` can only be the first of them and only
in `Uninitialized`. -/
structure InitLeads (text : List Byte) (b : Bits) (items : List Item) : Prop where
  phases : (eventPhases b items).IsChain (InitMove text)
  beginOnlyFirst : Item.bus ∉ items.tail
  beginAtStart : items.head? = some .bus → b.1 = .uninitialized

/-- The last event of an item is followed by moves from the phase it was emitted in. -/
theorem InitLeads.onward {text : List Byte} {b b' : Bits} {items items' : List Item} (h : InitLeads text b items)
    (hevent : ∀ item ∈ items.head?, item.silent = false) (ho : Onward b items b' items') :
    (b.1 :: eventPhases b' items').IsChain (InitMove text) ∧ Item.bus ∉ items' := by
  obtain ⟨hphases, hfirst, hstart⟩ := h
  cases ho with
  | past item =>
    rw [eventPhases_event b _ (hevent item rfl)] at hphases
    exact ⟨hphases, hfirst⟩
  | pastMessage item rest hbyte =>
    rw [eventPhases_event b rest (hevent item rfl)] at hphases
    rw [apply_of_sendsByte b hbyte] at hphases ⊢
    exact ⟨isChain_dropGlyphs hphases, fun hm => hfirst ((List.dropWhile_sublist _).mem hm)⟩
  | cannotStart rest =>
    refine ⟨?_, by simp⟩
    rw [hstart rfl]
    simp [eventPhases, Item.silent, Item.calls, Item.sendsByte, Item.apply, InitMove]

/-- Where going on stops, the phases still to come begin with the phase it leaves the block in. -/
theorem Stopped.eventPhases {s t : State} {r : Run} {passed rest : List Item} (h : Stopped s r t passed rest) :
    ∃ more, eventPhases s.bits (passed ++ rest) = t.phase :: more ∧ eventPhases t.bits rest = t.phase :: more := by
  have hsame := eventPhases_passed s.bits rest h.silent
  rw [← h.bits] at hsame
  rw [hsame]
  rcases h.stands with ⟨rfl, _⟩ | ⟨q, _, rfl, hp, _⟩
  · exact ⟨[], rfl, rfl⟩
  · obtain ⟨item, more, ht, hevent⟩ := hp.head
    rw [ht, eventPhases_event _ _ hevent]
    exact ⟨_, rfl, rfl⟩

/-- A small step of an INIT makes a move, and what holds of the INIT goes on to hold. -/
theorem tick_initMove {text : List Byte} {r : Run} (hseq : s.seq = some r) (hp : r.Placed)
    (h : InitLeads text s.bits r.todo) :
    InitMove text s.phase s.tick.phase ∧ ∀ q, s.tick.seq = some q → q.Placed ∧ InitLeads text s.tick.bits q.todo := by
  rw [tick_busy s hseq, State.tickRun]
  rcases emit_moves s hp with ⟨hw, hbits⟩ | hl
  · rw [goOn_sending _ hw.byte, setSeq_phase, show (s.emit r).1.phase = s.phase from congrArg (·.1) hbits]
    refine ⟨.inl rfl, fun q hq => ?_⟩
    obtain rfl : (s.emit r).2 = q := Option.some.inj hq
    rw [setSeq_bits, hbits, hw.todo]
    exact ⟨emit_placed s hp hw.byte, h⟩
  · obtain ⟨item, rest, ht, hevent⟩ := hp.head
    obtain ⟨hchain, hbus⟩ := h.onward (by simpa [ht] using hevent) hl.onward
    obtain ⟨passed, rest, hsplit, hstop⟩ := goOn_stopped (s.emit r).1 (s.emit r).2 hl.idle
    obtain ⟨more, hbefore, hafter⟩ := hstop.eventPhases
    rw [hsplit, hbefore] at hchain
    obtain ⟨hmove, hmore⟩ := List.isChain_cons_cons.mp hchain
    refine ⟨hmove, fun q hq => ?_⟩
    rcases hstop.stands with ⟨_, hnone⟩ | ⟨q', hq', htodo, hplaced, _⟩
    · simp [hnone] at hq
    · obtain rfl : q' = q := Option.some.inj (hq'.symm.trans hq)
      rw [hsplit, ← htodo] at hbus
      have hbus' : Item.bus ∉ q'.todo := fun hm => hbus (List.mem_append_right _ hm)
      refine ⟨hplaced, ?_, fun hm => hbus' (List.mem_of_mem_tail hm), fun hh => absurd (List.mem_of_head? hh) hbus'⟩
      rw [htodo, hafter]
      exact hmore

/-- An INIT in progress after any number of small steps. -/
theorem ticks_initLeads {text : List Byte} (m : Nat)
    (h : ∀ r, s.seq = some r → r.Placed ∧ InitLeads text s.bits r.todo) :
    ∀ r, (s.ticks m).seq = some r → r.Placed ∧ InitLeads text (s.ticks m).bits r.todo := by
  induction m generalizing s with
  | zero => exact h
  | succ m ih =>
    refine ih s.tick fun q hq => ?_
    cases hseq : s.seq with
    | none =>
      rw [tick_idle s hseq, hseq] at hq
      cases hq
    | some r =>
      obtain ⟨hp, hleads⟩ := h r hseq
      exact (tick_initMove s hseq hp hleads).2 q hq

/-- The self-test message stays in `Configured` and ends in `Ready` (R124, R125). -/
theorem isChain_selftest (text cs : List Byte) (bl : Bool) (rs : RegisterSelect) :
    (Phase.configured :: eventPhases (.configured, bl, rs) (cs.map Item.gbyte ++ [.setPhase .ready])).IsChain
      (InitMove text) := by
  induction cs with
  | nil => simp [eventPhases, Item.silent, Item.calls, Item.sendsByte, Item.apply, InitMove]
  | cons c cs ih => exact List.isChain_cons_cons.mpr ⟨.inl rfl, ih⟩

/-- From `FourBitMode` the self-test message is entered through `Configured`, or skipped if it is empty (R125). -/
theorem isChain_configured (text : List Byte) (bl : Bool) (rs : RegisterSelect) :
    (Phase.fourBitMode :: eventPhases (.configured, bl, rs) (text.map Item.gbyte ++ [.setPhase .ready])).IsChain
      (InitMove text) := by
  cases text with
  | nil => simp [eventPhases, Item.silent, Item.calls, Item.sendsByte, Item.apply, InitMove]
  | cons c cs => exact List.isChain_cons_cons.mpr ⟨by simp [InitMove], isChain_selftest _ cs bl rs⟩

theorem initLeads_itemList (cfg : Config) (arg : Byte) (bl : Bool) (rs : RegisterSelect) :
    InitLeads (effectiveText cfg.selftestText) (.uninitialized, bl, rs) (itemList cfg (.init arg)) where
  phases := by
    simp [itemList, eventPhases, Item.silent, Item.calls, Item.sendsByte, Item.apply, InitMove, isChain_configured]
  beginOnlyFirst := by simp [itemList]
  beginAtStart _ := rfl

/-- An accepted INIT stands at `BEGIN`. -/
theorem accept_init (arg : Byte) (h : s.phase = .uninitialized) :
    s.accept (.init arg) = s.setSeq (some (.begin (.init arg) (itemList s.cfg (.init arg)))) := by
  rw [State.accept, show s.admission (.init arg) = none by simp [State.admission, h]]
  rfl

/-! ## The obligations -/

/-- Settles O53: a step is the reset, small steps, an acceptance or a whole instruction, and each keeps the invariant. -/
theorem stepKeepsInvariant : Obligations.StepKeepsInvariant := by
  intro s t h hstep
  rcases step_cases s hstep with ⟨rest, _, rfl⟩ | ⟨_, rfl⟩ | ⟨_, rfl⟩ | ⟨rest, _, rfl⟩ | ⟨i, rest, hfetch, _, rfl⟩ |
    ⟨i, rest, hfetch, hexec⟩
  · exact setInputs_inv _ rest (hardReset_inv s)
  · exact tick_inv s h
  · exact h
  · exact setInputs_inv _ rest (tick_inv s h)
  · exact accept_inv _ i (idle_of_fetch s (.inl hfetch)) (setInputs_inv s rest h)
  · exact exec_inv (s.setInputs rest) (idle_of_fetch s (hfetch.imp And.left id)) (setInputs_inv s rest h) hexec

/-- Settles O28: the bodies of INIT and TEARDOWN only extend the trace, and so does a refusal. -/
theorem initTeardownFrame : Obligations.InitTeardownFrame := by
  intro s arg i hi
  obtain ⟨t, hexec, h⟩ : ∃ t, exec i s = .next t ∧ s.Extends t := by
    rcases hi with rfl | rfl
    · exact ⟨_, rfl, extends_operate s (extends_initBody s)⟩
    · exact ⟨_, rfl, extends_operate s (extends_teardownBody s)⟩
  obtain ⟨hrw, hseq, hinputs, hcfg, hgran⟩ := h.fields
  obtain ⟨evs, htrace, _⟩ := h.adds
  exact ⟨t, evs, hexec, hrw, hseq, hinputs, hcfg, hgran, h.primResult, htrace⟩

/-- Settles O43: a refusal writes no field, and an admitted operation ends with the fields its items lead to. -/
theorem registerSelectAfterOperation : Obligations.RegisterSelectAfterOperation := by
  intro s i hi
  cases hadm : s.admission i with
  | some st => exact ⟨_, exec_refused s hi hadm, rfl⟩
  | none =>
    obtain ⟨t, hexec, hbits⟩ := exec_admitted s hadm
    refine ⟨t, hexec, ?_⟩
    rw [show t.registerSelect = (s.bitsAfter i).2.2 from congrArg (·.2.2) hbits]
    cases admitted_of_admission s hadm with
    | init arg =>
      cases hb : s.bus.beginAnswer 0 with
      | false => simp [bitsAfter_cannotStart s arg hb]
      | true => simp [bitsAfter_starts s arg hb]
    | msg arg text => simp [State.bitsAfter, foldl_apply_msg]
    | clear arg | home arg | teardown arg => rfl
    | goto pos => rfl

/-- Settles O48: in `Failed` admission refuses every host word, and the other rows write no field. -/
theorem failedIsTerminal : Obligations.FailedIsTerminal := by
  constructor
  · intro s t h hidle hstep
    rcases step_cases s hstep with ⟨rest, hfetch, _⟩ | ⟨_, rfl⟩ | ⟨_, rfl⟩ | ⟨rest, _, rfl⟩ | ⟨i, rest, _, _, rfl⟩ |
      ⟨i, rest, _, hexec⟩
    · exact .inr ⟨rest, inputs_of_fetch_reset s hfetch⟩
    · rw [tick_idle s hidle]
      exact .inl h
    · exact .inl h
    · rw [tick_idle s hidle]
      exact .inl h
    · obtain ⟨st, hadm, _⟩ := admission_of_failed (s.setInputs rest) i h
      rw [State.accept, hadm]
      exact .inl h
    · exact .inl (exec_failed (s.setInputs rest) h hexec)
  · intro s i h hi
    obtain ⟨st, hadm, hst⟩ := admission_of_failed s i h
    exact ⟨st, exec_refused s hi hadm, hst⟩

/-- Settles O49: what is admitted outside `Ready` is an INIT in `Uninitialized`, and a refusal writes a status only. -/
theorem silentUnlessAdmitted : Obligations.SilentUnlessAdmitted := by
  intro s i hi hready hinit
  cases hadm : s.admission i with
  | some st => exact ⟨_, exec_refused s hi hadm, rfl, rfl⟩
  | none =>
    cases admitted_of_admission s hadm with
    | init arg hphase => exact absurd rfl (hinit hphase arg)
    | _ => exact absurd ‹s.phase = .ready› hready

/-- Settles O56: a small step is one event of the position, then the going on that emits none and moves it forward. -/
theorem oneEventPerSmallStep : Obligations.OneEventPerSmallStep := by
  constructor
  · intro s
    cases hseq : s.seq with
    | none => exact ⟨[], by simp, by simp [tick_idle s hseq], by simp [tick_idle s hseq, txFrames]⟩
    | some r =>
      rw [tick_busy s hseq, State.tickRun, goOn_bus]
      rcases emit_event s r with ⟨ev, _, htrace, hcalls⟩ | ⟨_, hnothing⟩
      · exact ⟨[ev], Nat.le_refl 1, htrace, hcalls⟩
      · exact ⟨[], by simp, by simp [hnothing], by simp [hnothing, txFrames]⟩
  · intro s p h hpos
    obtain ⟨r, hseq, rfl⟩ : ∃ r, s.seq = some r ∧ r.position = p := by simpa [State.position] using hpos
    obtain ⟨_, hp, _⟩ := (r.sound_iff s).mp (h.soundWhenBusy r hseq)
    obtain ⟨ev, _, htrace⟩ := tick_trace s hseq hp
    exact ⟨⟨ev, htrace⟩, tick_advances s hseq hp⟩

/-- Settles O60: the items of an INIT lead the phase along the moves, and every small step goes by the items. -/
theorem initWalksThePhases : Obligations.InitWalksThePhases := by
  intro s arg m _ hphase u
  have hstart : ∀ r, (s.accept (.init arg)).seq = some r →
      r.Placed ∧ InitLeads (effectiveText s.cfg.selftestText) (s.accept (.init arg)).bits r.todo := by
    rw [accept_init s arg hphase]
    intro r hr
    obtain rfl := Option.some.inj hr
    refine ⟨Run.placed_of_cons rfl (.inl ⟨rfl, rfl⟩), ?_⟩
    rw [setSeq_bits, State.bits, hphase]
    exact initLeads_itemList s.cfg arg _ _
  cases hseq : u.seq with
  | none => exact .inl (by rw [tick_idle u hseq])
  | some r =>
    obtain ⟨hp, hleads⟩ := ticks_initLeads _ m hstart r hseq
    exact (tick_initMove u hseq hp hleads).1

/-- Settles O1: each field of the reset state at its value. -/
theorem resetStateValues : Obligations.ResetStateValues := ⟨rfl, rfl, rfl, rfl, rfl, rfl, rfl, rfl⟩

/-- Settles O52: no event yet, the block idle, and the control bits at their reset values in `Uninitialized`. -/
theorem invariantAtReset : Obligations.InvariantAtReset := by
  show State.reset.hardReset.Inv
  exact hardReset_inv State.reset

end Sys2Proof.Machine

/-! The obligations of 30_encoding.md: the words of the block and their decoding both ways (R61 to R75), the rows that send
one frame or one byte (R61, R71, R75), and what of a host word has no effect (R67, R68).  At the host's boundary both
round trips go through the word's two fields and the text (`decodeCommand (hostWord op arg) text`), at the others through
the one byte that stands there. -/

namespace Sys2Proof

/-! ## The host word -/

/-- A word is its two fields (R64). -/
theorem hostWord_opField_argField (w : CmdWord) : hostWord (opField w) (argField w) = w := by
  revert w
  decide

/-- What is left of the high byte of a host word when only its three low bits are kept: all of it, if it is below 8. -/
theorem setWidth_setWidth_of_lt : ∀ hi : Byte, hi.toNat < 8 → (hi.setWidth 3).setWidth 8 = hi := by
  decide

theorem opcode_cases_of_ne_msg : ∀ op : BitVec 3,
    op ≠ 1 → op = 0#3 ∨ op = 2#3 ∨ op = 3#3 ∨ op = 4#3 ∨ op = 5#3 ∨ op = 6#3 ∨ op = 7#3 := by
  decide

section OpcodeMap

variable (arg : Byte) (text : List Byte)

@[simp] theorem decodeCommand_init : decodeCommand (hostWord 0#3 arg) text = .init arg := by
  simp [decodeCommand, hostWord_fields]

@[simp] theorem decodeCommand_msg : decodeCommand (hostWord 1#3 arg) text = .msg arg text := by
  simp [decodeCommand, hostWord_fields]

@[simp] theorem decodeCommand_clear : decodeCommand (hostWord 2#3 arg) text = .clear arg := by
  simp [decodeCommand, hostWord_fields]

@[simp] theorem decodeCommand_home : decodeCommand (hostWord 3#3 arg) text = .home arg := by
  simp [decodeCommand, hostWord_fields]

@[simp] theorem decodeCommand_goto : decodeCommand (hostWord 4#3 arg) text = .goto arg := by
  simp [decodeCommand, hostWord_fields]

@[simp] theorem decodeCommand_teardown : decodeCommand (hostWord 5#3 arg) text = .teardown arg := by
  simp [decodeCommand, hostWord_fields]

@[simp] theorem decodeCommand_reserved6 : decodeCommand (hostWord 6#3 arg) text = .reserved6 arg := by
  simp [decodeCommand, hostWord_fields]

@[simp] theorem decodeCommand_reserved7 : decodeCommand (hostWord 7#3 arg) text = .reserved7 arg := by
  simp [decodeCommand, hostWord_fields]

end OpcodeMap

/-- Every host operation is what the opcode map makes of a word, with a text only if the word is MSG's (R65, R68). -/
theorem exists_hostWord_of_isHost {i : Instr} (h : i.isHost = true) :
    ∃ op arg text, (op = 1 ∨ text = []) ∧ decodeCommand (hostWord op arg) text = i := by
  cases i with
  | init arg => exact ⟨0, arg, [], .inr rfl, decodeCommand_init arg []⟩
  | msg arg text => exact ⟨1, arg, text, .inl rfl, decodeCommand_msg arg text⟩
  | clear arg => exact ⟨2, arg, [], .inr rfl, decodeCommand_clear arg []⟩
  | home arg => exact ⟨3, arg, [], .inr rfl, decodeCommand_home arg []⟩
  | goto pos => exact ⟨4, pos, [], .inr rfl, decodeCommand_goto pos []⟩
  | teardown arg => exact ⟨5, arg, [], .inr rfl, decodeCommand_teardown arg []⟩
  | reserved6 arg => exact ⟨6, arg, [], .inr rfl, decodeCommand_reserved6 arg []⟩
  | reserved7 arg => exact ⟨7, arg, [], .inr rfl, decodeCommand_reserved7 arg []⟩
  | _ => cases h

/-- The operation a word stands for is encoded as that word, followed by the text (R64, R65, R68). -/
theorem encode_decodeCommand {op : BitVec 3} {text : List Byte} (arg : Byte) (h : op = 1 ∨ text = []) :
    encode (decodeCommand (hostWord op arg) text) = some ⟨.host, hostWordBytes (hostWord op arg) ++ text⟩ := by
  by_cases hmsg : op = 1
  · subst hmsg
    exact congrArg encode (decodeCommand_msg arg text)
  · obtain rfl := h.resolve_left hmsg
    rcases opcode_cases_of_ne_msg op hmsg with rfl | rfl | rfl | rfl | rfl | rfl | rfl <;> simp [encode]

theorem wf_of_isHost {i : Instr} (h : i.isHost = true) : i.wf = true := by
  cases i with
  | init | msg | clear | home | goto | teardown | reserved6 | reserved7 => rfl
  | _ => cases h

/-- Bytes that decode at the host's boundary are a host word and its text (R64, R68). -/
theorem decodeHostBytes_ok {bytes : List Byte} {i : Instr} (h : decodeHostBytes bytes = .ok i) :
    ∃ op arg text, (op = 1 ∨ text = []) ∧ bytes = hostWordBytes (hostWord op arg) ++ text ∧
      i = decodeCommand (hostWord op arg) text := by
  unfold decodeHostBytes at h
  split at h
  case h_1 lo hi rest =>
    split at h
    case isTrue hwidth =>
      have hhi := setWidth_setWidth_of_lt hi hwidth
      dsimp only at h
      split at h
      case isTrue htext =>
        refine ⟨hi.setWidth 3, lo, rest, htext.imp_left ?_, ?_, (Except.ok.inj h).symm⟩
        · rintro rfl
          rfl
        · rw [hostWordBytes_hostWord, hhi]
          rfl
      case isFalse => cases h
    case isFalse => cases h
  case h_2 => cases h

/-! ## One byte at an inner boundary -/

/-- A set-address byte is read back with its address, if GOTO can name it (R71, R73). -/
theorem decodeCommandByte_setddramByte : ∀ addr : Addr7, Default.isNamedDdram addr = true →
    decodeCommandByte (setddramByte addr) = .ok (.lcdSetddram addr) := by
  decide

theorem setddramByte_extractLsb' : ∀ v : Byte, v.getLsbD 7 = true → setddramByte (v.extractLsb' 0 7) = v := by
  decide

theorem decodeEntryCommand_ok {v : Byte} {i : Instr} (h : decodeEntryCommand v = .ok i) :
    i.wf = true ∧ encode i = some ⟨.entryCommand, [v]⟩ := by
  unfold decodeEntryCommand at h
  split at h
  case isTrue hv =>
    cases h
    exact ⟨rfl, by rw [hv]; rfl⟩
  case isFalse => cases h

/-- A command byte is one of the six fixed codes or a set-address byte (R71, R73). -/
theorem decodeCommandByte_ok {v : Byte} {i : Instr} (h : decodeCommandByte v = .ok i) :
    i.wf = true ∧ encode i = some ⟨.command, [v]⟩ := by
  unfold decodeCommandByte at h
  dsimp only at h
  split_ifs at h with hfuncset hdispoff hclear hentry hdispon hhome hbit haddr <;> cases h
  · exact ⟨rfl, by rw [hfuncset]; rfl⟩
  · exact ⟨rfl, by rw [hdispoff]; rfl⟩
  · exact ⟨rfl, by rw [hclear]; rfl⟩
  · exact ⟨rfl, by rw [hentry]; rfl⟩
  · exact ⟨rfl, by rw [hdispon]; rfl⟩
  · exact ⟨rfl, by rw [hhome]; rfl⟩
  · exact ⟨haddr, by rw [encode, setddramByte_extractLsb' v hbit]⟩

theorem decodeGlyph_ok {v : Byte} {i : Instr} (h : decodeGlyph v = .ok i) :
    i.wf = true ∧ encode i = some ⟨.glyph, [v]⟩ := by
  unfold decodeGlyph at h
  split at h
  case isTrue hv =>
    cases h
    exact ⟨hv, rfl⟩
  case isFalse => cases h

theorem decodeInner_ok {b : Boundary} {v : Byte} {i : Instr} (h : decodeInner b v = .ok i) :
    i.wf = true ∧ encode i = some ⟨b, [v]⟩ := by
  cases b with
  | host => cases h
  | frame =>
    obtain rfl := Except.ok.inj h
    exact (encode_decodeFrame v).symm
  | entryCommand => exact decodeEntryCommand_ok h
  | command => exact decodeCommandByte_ok h
  | glyph => exact decodeGlyph_ok h

/-- What decodes is a host request or one byte (R60). -/
theorem decode_ok {b : Boundary} {bytes : List Byte} {i : Instr} (h : decode b bytes = .ok i) :
    (b = .host ∧ decodeHostBytes bytes = .ok i) ∨ ∃ v, bytes = [v] ∧ decodeInner b v = .ok i := by
  unfold decode at h
  split at h
  · exact .inl ⟨rfl, h⟩
  · cases h
  · exact .inr ⟨_, rfl, h⟩
  · cases h

/-! ## Both round trips -/

/-- A host operation is read back whole from its encoding (R64, R65, R68). -/
theorem decode_encode_of_isHost {i : Instr} {e : Encoded} (hi : i.isHost = true) (he : encode i = some e) :
    decode e.boundary e.bytes = .ok i := by
  obtain ⟨op, arg, text, htext, rfl⟩ := exists_hostWord_of_isHost hi
  rw [encode_decodeCommand arg htext] at he
  cases he
  exact decode_hostWordBytes op arg text htext

/-- An instruction that is no host operation is read back from the one byte it is encoded as (R61, R71, R75). -/
theorem decode_encode_of_not_isHost {i : Instr} {e : Encoded} (hi : i.isHost = false) (hwf : i.wf = true)
    (he : encode i = some e) : decode e.boundary e.bytes = .ok i := by
  cases i with
  | init | msg | clear | home | goto | teardown | reserved6 | reserved7 => cases hi
  | encode | writeNibble | writeByte | cmdByte => cases he
  | frameEnLow nibble bl rs =>
    cases he
    exact congrArg Except.ok (decodeFrame_frameBits nibble bl false rs).2.2
  | frameEnHigh nibble bl rs =>
    cases he
    exact congrArg Except.ok (decodeFrame_frameBits nibble bl true rs).2.1
  | frameRwSet nibble bl en rs =>
    cases he
    exact congrArg Except.ok (decodeFrame_frameBits nibble bl en rs).1
  | lcdFourbit | lcdFuncset | lcdDispoff | lcdClear | lcdEntry | lcdDispon | lcdHome =>
    cases he
    rfl
  | lcdSetddram addr =>
    cases he
    exact decodeCommandByte_setddramByte addr hwf
  | glyph g =>
    cases he
    exact if_pos hwf

/-- What decodes at the host's boundary is encoded as the bytes it was read from (R64, R65, R68). -/
theorem encode_of_decodeHostBytes {bytes : List Byte} {i : Instr} (h : decodeHostBytes bytes = .ok i) :
    i.wf = true ∧ encode i = some ⟨.host, bytes⟩ := by
  obtain ⟨op, arg, text, htext, rfl, rfl⟩ := decodeHostBytes_ok h
  exact ⟨wf_of_isHost (Machine.decodeCommand_isHost _ _), encode_decodeCommand arg htext⟩

/-! ## The bytes of the command-byte rows -/

/-- The byte a command-byte row sends with the given parameters (R71, R73). -/
def Instr.commandByte (cfg : Config) : Instr → Option Byte
  | .lcdFourbit => some cfg.cmdFourbit
  | .lcdFuncset => some cfg.cmdFuncset
  | .lcdDispoff => some cfg.cmdDispoff
  | .lcdClear => some cfg.cmdClear
  | .lcdEntry => some cfg.cmdEntry
  | .lcdDispon => some cfg.cmdDispon
  | .lcdHome => some cfg.cmdHome
  | .lcdSetddram addr => some (Machine.setAddressByte cfg addr)
  | _ => none

/-- The default set-address code has only its top bit set, above the address, so or-ing is adding (R71, R73). -/
theorem or_setWidth_eq_add : ∀ addr : Addr7, (0x80 : Byte) ||| addr.setWidth 8 = 0x80 + addr.setWidth 8 := by
  decide

end Sys2Proof

namespace Sys2Proof.Machine

variable (s : State)

/-! ## The bits of a frame -/

section FrameBits

variable (j : Nat)

/-- A mask of one bit has that bit and no other. -/
theorem getLsbD_oneBit {k : Nat} (hk : k < 8) : (BitVec.twoPow 8 k).getLsbD j = decide (j = k) := by
  simp [BitVec.getLsbD_twoPow, hk, eq_comm]

theorem getLsbD_maskBL : maskBL.getLsbD j = decide (j = 3) := getLsbD_oneBit j (k := 3) (by decide)
theorem getLsbD_maskEN : maskEN.getLsbD j = decide (j = 2) := getLsbD_oneBit j (k := 2) (by decide)
theorem getLsbD_maskRW : maskRW.getLsbD j = decide (j = 1) := getLsbD_oneBit j (k := 1) (by decide)
theorem getLsbD_maskRS : maskRS.getLsbD j = decide (j = 0) := getLsbD_oneBit j (k := 0) (by decide)

/-- The enable-high frame has bit 2 set and every other bit as it was (R62, R101). -/
theorem getLsbD_enableHigh (f : Byte) : (enableHigh f).getLsbD j = (decide (j = 2) || f.getLsbD j) := by
  rw [enableHigh, BitVec.getLsbD_or, getLsbD_maskEN, Bool.or_comm]

/-- Every bit of the base frame (R61, R62). -/
theorem getLsbD_baseFrame (n : Byte) :
    (s.baseFrame n).getLsbD j =
      (decide (4 ≤ j ∧ j < 8) && n.getLsbD (j - 4) || s.backlightOn && decide (j = 3) ||
        s.readWrite.bit && decide (j = 1) || s.registerSelect.bit && decide (j = 0)) := by
  have hnibble : ((n &&& 0x0F) <<< 4).getLsbD j = (decide (4 ≤ j ∧ j < 8) && n.getLsbD (j - 4)) := by
    rw [low_nibble_shift, BitVec.getLsbD_shiftLeft]
    rcases Nat.lt_or_ge j 4 with h4 | h4
    · simp [h4, Nat.not_le.mpr h4]
    · simp [h4, Nat.not_lt.mpr h4]
  have hbl : (if s.backlightOn then maskBL else 0 : Byte).getLsbD j = (s.backlightOn && decide (j = 3)) := by
    cases s.backlightOn <;> simp [getLsbD_maskBL]
  have hrw : (if s.readWrite = .read then maskRW else 0 : Byte).getLsbD j = (s.readWrite.bit && decide (j = 1)) := by
    cases s.readWrite <;> simp [getLsbD_maskRW, ReadWrite.bit]
  have hrs : (if s.registerSelect = .character then maskRS else 0 : Byte).getLsbD j =
      (s.registerSelect.bit && decide (j = 0)) := by
    cases s.registerSelect <;> simp [getLsbD_maskRS, RegisterSelect.bit]
  rw [State.baseFrame, baseFrame, BitVec.getLsbD_or, BitVec.getLsbD_or, BitVec.getLsbD_or, hnibble, hbl, hrw, hrs]

end FrameBits

/-- A frame's bits, put side by side or or-ed into the nibble (R61). -/
theorem frameBits_eq_or : ∀ (n : Nibble) (bl rs : Bool),
    frameBits n bl false false rs = (n ++ 0x0#4) ||| (if bl then 0x08 else 0x00) ||| (if rs then 0x01 else 0x00) ∧
      frameBits n bl true false rs =
        (n ++ 0x0#4) ||| (if bl then 0x08 else 0x00) ||| (if rs then 0x01 else 0x00) ||| 0x04 := by
  decide

/-! ## The rows that send one frame or one byte -/

/-- A primitive run as an instruction hands its status back (R101). -/
theorem runPrimitive_eq {body : State → Status × State} {st : Status} {t : State} (h : body s = (st, t)) :
    s.runPrimitive body = t.handBack (.status st) := by
  rw [State.runPrimitive, h]

theorem frame_eq (f : Byte) :
    s.frame f = (statusOfWrite (s.bus.writeAnswer 0),
      s.setBus (s.bus.after 1 [.tx f (s.bus.writeAnswer 0), .wait s.cfg.tSettle])) := by
  rw [State.frame, sendFrame_eq]

/-- A command-byte row runs CMD_BYTE on its byte (R71, R73, R106). -/
theorem exec_of_commandByte {i : Instr} {code : Byte} (h : i.commandByte s.cfg = some code) :
    exec i s = .next (s.runPrimitive (State.cmdByte code)) := by
  cases i with
  | lcdFourbit | lcdFuncset | lcdDispoff | lcdClear | lcdEntry | lcdDispon | lcdHome | lcdSetddram =>
    cases h
    rfl
  | _ => cases h

/-! ## The text of a message -/

/-- The effective text ends before the first `0x00`, whatever follows it (R68). -/
theorem effectiveText_append_null (text more : List Byte) : effectiveText (text ++ 0 :: more) = effectiveText text := by
  induction text with
  | nil => rfl
  | cons c rest ih =>
    simp only [effectiveText, List.cons_append, List.takeWhile_cons] at ih ⊢
    rw [ih]

theorem msgBody_append_null (text more : List Byte) : State.msgBody (text ++ 0 :: more) = State.msgBody text := by
  funext s
  rw [State.msgBody, ← sendText_effectiveText, effectiveText_append_null, sendText_effectiveText, State.msgBody]

/-! ## The obligations -/

/-- Settles O5: a host operation is read back from its word and text, every other instruction from its one byte. -/
theorem decodeOfEncode : Obligations.DecodeOfEncode := by
  intro i e hwf he
  cases hi : i.isHost with
  | true => exact decode_encode_of_isHost hi he
  | false => exact decode_encode_of_not_isHost hi hwf he

/-- Settles O6: what decodes is a host word with its text or one byte, and each is encoded as it stood. -/
theorem encodeOfDecode : Obligations.EncodeOfDecode := by
  intro b bytes i h
  rcases decode_ok h with ⟨rfl, hhost⟩ | ⟨v, rfl, hinner⟩
  · exact encode_of_decodeHostBytes hhost
  · exact decodeInner_ok hinner

/-- Settles O21: with the default codes each row's byte is the one listed, and CMD_BYTE sends it, whole or cut short. -/
theorem commandByteRowsSendTheirByte : Obligations.CommandByteRowsSendTheirByte := by
  intro s i code hdefaults hrow
  have hcode : i.commandByte s.cfg = some code := by
    rw [show s.cfg = _ from hdefaults]
    rcases hrow with ⟨rfl, rfl⟩ | ⟨rfl, rfl⟩ | ⟨rfl, rfl⟩ | ⟨rfl, rfl⟩ | ⟨rfl, rfl⟩ | ⟨rfl, rfl⟩ | ⟨rfl, rfl⟩ |
      ⟨addr, rfl, rfl⟩
    case inr.inr.inr.inr.inr.inr.inr => exact congrArg some (or_setWidth_eq_add addr)
    all_goals rfl
  rw [exec_of_commandByte s hcode]
  exact ⟨fun haccepts => congrArg _ (runPrimitive_eq s (cmdByte_accepted s code haccepts)),
    fun k hk haccepts hst => congrArg _ (runPrimitive_eq s (cmdByte_cut s code hk haccepts hst))⟩

/-- Settles O22: the row is WRITE_BYTE on its byte, whole or cut short. -/
theorem glyphRowSendsItsByte : Obligations.GlyphRowSendsItsByte := by
  intro s g
  have hexec : exec (.glyph g) s = .next (s.runPrimitive (State.writeByte g)) := rfl
  rw [hexec]
  exact ⟨fun haccepts => congrArg _ (runPrimitive_eq s (writeByte_accepted s g haccepts)),
    fun k hk haccepts hst => congrArg _ (runPrimitive_eq s (writeByte_cut s g hk haccepts hst))⟩

/-- Settles O34: the two texts have the same effective text, and the body of a message reads no more. -/
theorem msgStopsAtTerminator : Obligations.MsgStopsAtTerminator := by
  intro s arg text more
  exact congrArg (fun body => Host.Outcome.next (s.operate .ready body)) (msgBody_append_null text more)

/-- Settles O3: the fields of a word are what it was made of, and the opcode map reads each operation. -/
theorem hostWordOpcodeMap : Obligations.HostWordOpcodeMap :=
  ⟨hostWord_fields, fun arg text => ⟨decodeCommand_init arg text, decodeCommand_msg arg text, decodeCommand_clear arg text,
    decodeCommand_home arg text, decodeCommand_goto arg text, decodeCommand_teardown arg text,
    decodeCommand_reserved6 arg text, decodeCommand_reserved7 arg text⟩⟩

/-- Settles O4: the decoder evaluated on each word. -/
theorem sampleWordsDecode : Obligations.SampleWordsDecode := by
  unfold Obligations.SampleWordsDecode
  decide

/-- Settles O7: the word is its two fields, and the byte decoder on their bytes is the opcode map. -/
theorem hostPortMatchesDecoder : Obligations.HostPortMatchesDecoder := by
  intro w text h
  have hdecode := decode_hostWordBytes (opField w) (argField w) text h
  rwa [hostWord_opField_argField] at hdecode

/-- Settles O8: none of the five meanings reads `arg`. -/
theorem argFieldIgnored : Obligations.ArgFieldIgnored :=
  fun _ _ _ _ => ⟨rfl, rfl, rfl, rfl, rfl⟩

/-- Settles O9: each clause is a case of the formula for every bit of the base frame. -/
theorem baseFrameLayout : Obligations.BaseFrameLayout := by
  intro s n
  refine ⟨fun j hj => ?_, ?_, ?_, ?_, ?_, fun j _ => getLsbD_enableHigh j _⟩
  all_goals rw [getLsbD_baseFrame]
  · have h8 : 4 + j < 8 := by omega
    have h3 : 4 + j ≠ 3 := by omega
    have h1 : 4 + j ≠ 1 := by omega
    simp [h8, h3, h1]
  all_goals simp

/-- Settles O19: the row sends its bits as one frame, and the frame is the or of its parts. -/
theorem frameRowsSendOneFrame : Obligations.FrameRowsSendOneFrame := by
  intro s n bl rs st sent low
  obtain ⟨hlow, hhigh⟩ := frameBits_eq_or n bl rs
  have hsent : ∀ f, s.runPrimitive (State.frame f) = sent f := fun f => runPrimitive_eq s (frame_eq s f)
  constructor
  · exact congrArg Host.Outcome.next ((hsent _).trans (congrArg sent hlow))
  · exact congrArg Host.Outcome.next ((hsent _).trans (congrArg sent hhigh))

/-- Settles O20: the row has no other meaning than the refusal. -/
theorem readFrameRowRefused : Obligations.ReadFrameRowRefused :=
  fun _ _ _ _ _ => rfl

end Sys2Proof.Machine

namespace Sys2Proof.Machine

/-! ## The encoder, for any parameter table -/

section GlyphCode

variable {cfg : Config} {c d : Byte}

theorem glyphCode_of_inRange (hrange : cfg.encLo ≤ c ∧ c ≤ cfg.encHi) : glyphCode cfg c = c :=
  if_pos hrange

theorem glyphCode_of_outOfRange (hout : c < cfg.encLo ∨ cfg.encHi < c) : glyphCode cfg c = cfg.fallback := by
  refine if_neg fun ⟨hlo, hhi⟩ => ?_
  rcases hout with hlt | hgt
  · exact BitVec.not_le.mpr hlt hlo
  · exact BitVec.not_le.mpr hgt hhi

/-- A character is inside the supported range or on one side of it (R90, R91). -/
theorem inRange_or_outOfRange (cfg : Config) (c : Byte) :
    (cfg.encLo ≤ c ∧ c ≤ cfg.encHi) ∨ c < cfg.encLo ∨ cfg.encHi < c := by
  rw [← BitVec.not_le, ← BitVec.not_le, ← not_and_or]
  exact Classical.em _

/-- Only the fallback is a shared code (R95 c). -/
theorem eq_or_eq_fallback_of_glyphCode_eq (h : glyphCode cfg c = glyphCode cfg d) :
    c = d ∨ glyphCode cfg c = cfg.fallback := by
  rcases inRange_or_outOfRange cfg c with hc | hc
  · rcases inRange_or_outOfRange cfg d with hd | hd
    · rw [glyphCode_of_inRange hc, glyphCode_of_inRange hd] at h
      exact .inl h
    · exact .inr (h.trans (glyphCode_of_outOfRange hd))
  · exact .inr (glyphCode_of_outOfRange hc)

theorem glyphCode_eq_fallback_iff :
    glyphCode cfg c = cfg.fallback ↔ c = cfg.fallback ∨ c < cfg.encLo ∨ cfg.encHi < c := by
  constructor
  · intro h
    rcases inRange_or_outOfRange cfg c with hc | hc
    · exact .inl ((glyphCode_of_inRange hc).symm.trans h)
    · exact .inr hc
  · rintro (rfl | hc)
    · exact ite_self _
    · exact glyphCode_of_outOfRange hc

/-! What needs the fallback to be a supported code, which is the table's law `LegalParameters.glyphsNotNull`. -/

variable (hfallback : cfg.encLo ≤ cfg.fallback ∧ cfg.fallback ≤ cfg.encHi)
include hfallback

theorem glyphCode_inRange (c : Byte) : cfg.encLo ≤ glyphCode cfg c ∧ glyphCode cfg c ≤ cfg.encHi := by
  rcases inRange_or_outOfRange cfg c with hc | hc
  · rwa [glyphCode_of_inRange hc]
  · rwa [glyphCode_of_outOfRange hc]

/-- The image of the encoder is the supported range (R95 a). -/
theorem exists_glyphCode_eq_iff {g : Byte} : (∃ c, glyphCode cfg c = g) ↔ cfg.encLo ≤ g ∧ g ≤ cfg.encHi := by
  constructor
  · rintro ⟨c, rfl⟩
    exact glyphCode_inRange hfallback c
  · exact fun hg => ⟨g, glyphCode_of_inRange hg⟩

/-- Encoding twice is encoding once (R95 b). -/
theorem glyphCode_glyphCode (c : Byte) : glyphCode cfg (glyphCode cfg c) = glyphCode cfg c :=
  glyphCode_of_inRange (glyphCode_inRange hfallback c)

end GlyphCode

/-- Up to `0x7D` bit 7 is 0 (R95 d). -/
theorem getLsbD_seven_of_le {g : Byte} (h : g ≤ 0x7D) : g.getLsbD 7 = false := by
  have hlt : g.toNat < 2 ^ 7 := Nat.lt_of_le_of_lt (BitVec.le_def.mp h) (by decide)
  exact Nat.testBit_lt_two_pow hlt

/-! ## ENCODE -/

/-- ENCODE hands its glyph code back and does nothing else (R90, R92). -/
theorem exec_encode (s : State) (c : Byte) :
    exec (.encode c) s = .next (s.handBack (.glyph (glyphCode s.cfg c))) := rfl

/-- The encoder's parameters when the block is built with the defaults (R7). -/
theorem State.usesDefaults.encoderParameters {s : State} (h : s.usesDefaults) :
    s.cfg.encLo = 0x20 ∧ s.cfg.encHi = 0x7D ∧ s.cfg.fallback = 0x3F :=
  ⟨congrArg Config.encLo h, congrArg Config.encHi h, congrArg Config.fallback h⟩

/-! ## The obligations -/

/-- Settles O11: the default range is `0x20` to `0x7D`, and inside its range the encoder is the identity. -/
theorem encodeInRangeIsIdentity : Obligations.EncodeInRangeIsIdentity := by
  intro s c hdefaults hlo hhi
  obtain ⟨hencLo, hencHi, -⟩ := hdefaults.encoderParameters
  rw [exec_encode, glyphCode_of_inRange ⟨hencLo ▸ hlo, hencHi ▸ hhi⟩]

/-- Settles O12: outside the default range the encoder gives the default fallback. -/
theorem encodeOutOfRangeIsFallback : Obligations.EncodeOutOfRangeIsFallback := by
  intro s c hdefaults hout
  obtain ⟨hencLo, hencHi, hfallback⟩ := hdefaults.encoderParameters
  rw [← hencLo, ← hencHi] at hout
  rw [exec_encode, glyphCode_of_outOfRange hout, hfallback]

/-- Settles O13: the encoder's laws for any table, at the default range, which holds the default fallback and no code
with bit 7 set, nor `0x00`. -/
theorem encoderImageAndIdempotence : Obligations.EncoderImageAndIdempotence := by
  intro text policy enc
  have hfallback : (0x20 : Byte) ≤ 0x3F ∧ (0x3F : Byte) ≤ 0x7D := by decide
  have hrange : ∀ c, 0x20 ≤ enc c ∧ enc c ≤ 0x7D :=
    glyphCode_inRange (cfg := Config.standard text policy) hfallback
  have hnull : ¬ (0x20 : Byte) ≤ 0x00 := by decide
  refine ⟨fun g => exists_glyphCode_eq_iff hfallback, glyphCode_glyphCode hfallback,
    fun c d => eq_or_eq_fallback_of_glyphCode_eq, fun c => glyphCode_eq_fallback_iff,
    fun c => getLsbD_seven_of_le (hrange c).2, fun c hc => hnull ?_, ?_⟩
  · exact hc ▸ (hrange c).1
  · exact glyphCode_of_outOfRange (.inl (BitVec.not_le.mp hnull))

end Sys2Proof.Machine

/-! The obligations of 41_framing.md: the framing primitives whole (R100 to R106), the framing machine from IDLE back to IDLE
(R109, R110), and the item lists of the host operations against their pseudocode (R108, R130, R150).  A byte is followed
along the places of its item (`Place.rank`); an item list along the pseudocode it performs (`State.Performs`). -/

namespace Sys2Proof.Machine

variable (s : State)

/-! ## Back from a byte -/

theorem afterByte_command {r : Run} (policy : ErrPolicy) (h : r.iscmd = true) : r.afterByte policy = r.todo.tail :=
  if_neg fun ⟨_, hglyph, _⟩ => by simp [h] at hglyph

theorem afterByte_glyph {r : Run} (policy : ErrPolicy) (h : r.iscmd = false) :
    r.afterByte policy =
      if r.fail = true ∧ policy = .abort then r.todo.tail.dropWhile Item.isGlyph else r.todo.tail := by
  simp [Run.afterByte, h]

/-- At least the byte's own item is no longer among the items left after it. -/
theorem afterByte_length (r : Run) (policy : ErrPolicy) : (r.afterByte policy).length ≤ r.todo.length - 1 := by
  rw [← List.length_tail]
  unfold Run.afterByte
  split
  · exact (List.dropWhile_sublist _).length_le
  · exact Nat.le_refl _

/-- The failure flag of the framing machine, read back as a status of the framing layer (R109). -/
theorem status_of_fail {st : Status} (h : st = .ok ∨ st = .errIo) :
    (if decide (st ≠ .ok) = true then Status.errIo else .ok) = st := by
  rcases h with rfl | rfl <;> rfl

/-! ## One byte from IDLE -/

/-- WRITE_BYTE from IDLE (R109): the byte is loaded, and at most twelve events later its last settling delay is over, with
the bus as the pseudocode leaves it. -/
theorem load_sends (r : Run) (b : Byte) (iscmd : Bool) :
    ∃ n q, n ≤ 12 ∧
      (s.setSeq (some (r.load b (s.baseFrame (highNibble b)) iscmd))).Sends n
        ((s.writeByte b).2.goOn (Run.settled s.cfg q)) ∧
      q.op = r.op ∧ q.item = r.item ∧ q.todo = r.todo ∧ q.err = r.err ∧ q.iscmd = iscmd ∧
      q.fail = decide ((s.writeByte b).1 ≠ .ok) := by
  obtain ⟨n, f, _, hn, hsends⟩ :=
    sends_byte (s.setSeq (some (r.load b (s.baseFrame (highNibble b)) iscmd))) rfl rfl rfl
  rw [writeByte_setSeq, setSeq_goOn] at hsends
  exact ⟨n, _, hn, hsends, rfl, rfl, rfl, rfl, rfl, rfl⟩

theorem State.Sends.sending_of_lt {s t : State} {n : Nat} (h : s.Sends n t) (hs : s.sending) :
    ∀ m < n, (s.ticks m).sending := by
  intro m hm
  rcases Nat.eq_zero_or_pos m with rfl | hpos
  · exact hs
  · exact h.2 m hpos hm

theorem load_sending (r : Run) (b f : Byte) (iscmd : Bool) : (s.setSeq (some (r.load b f iscmd))).sending :=
  ⟨_, rfl, by simp [Run.load]⟩

/-- Past the last settling delay of a CMD_BYTE its own delay is the one event left (R106, R109). -/
theorem settled_command_sends {q : Run} (u : State) (h : q.iscmd = true) :
    (u.goOn (q.settled u.cfg)).sending ∧
      (u.goOn (q.settled u.cfg)).Sends 1 ((u.setBus (u.bus.wait u.cfg.tCmd)).goOn (q.byteDone u.cfg.errPolicy)) := by
  rw [Run.settled, if_pos h, goOn_sending _ (by simp)]
  refine ⟨⟨_, rfl, by simp⟩, ?_, fun m hm hm' => by omega⟩
  rw [ticks_one, tick_cw _ rfl rfl, setSeq_setBus, setSeq_goOn]
  rfl

theorem settled_glyph {q : Run} (cfg : Config) (h : q.iscmd = false) : q.settled cfg = q.byteDone cfg.errPolicy := by
  simp [Run.settled, h]

theorem goOn_cbyte {r : Run} {b : Byte} {rest : List Item} (hf : r.framing = .idle) (ht : r.todo = .cbyte b :: rest) :
    s.goOn r = s.setSeq (some (r.load b (s.baseFrame (highNibble b)) true)) := by
  rw [goOn_idle s hf, ht, State.pass]

theorem goOn_gbyte {r : Run} {c : Byte} {rest : List Item} (hf : r.framing = .idle) (ht : r.todo = .gbyte c :: rest) :
    s.goOn r = s.setSeq (some (r.load (glyphCode s.cfg c) (s.baseFrame (highNibble (glyphCode s.cfg c))) false)) := by
  rw [goOn_idle s hf, ht, State.pass]

theorem writeByte_cfg (code : Byte) : (s.writeByte code).2.cfg = s.cfg := by
  rw [writeByte_state, setBus_cfg]

/-- A CBYTE at the head of the list is the CMD_BYTE of the pseudocode, in at most thirteen events (R106, R109, R110). -/
theorem goOn_cbyte_returns {r : Run} {b : Byte} {rest : List Item} (hf : r.framing = .idle)
    (ht : r.todo = .cbyte b :: rest) :
    ∃ n r', n ≤ 13 ∧ (s.goOn r).ticks n = (s.cmdByte b).2.goOn r' ∧ r'.framing = .idle ∧ r'.op = r.op ∧
      r'.item = r.item + 1 ∧ r'.todo = rest ∧ r'.err = r.err.join (s.cmdByte b).1 ∧
      ∀ m < n, ((s.goOn r).ticks m).sending := by
  obtain ⟨n, q, hn, hsends, hop, hitem, htodo, herr, hcmd, hfail⟩ := load_sends s r b true
  rw [← goOn_cbyte s hf ht, ← writeByte_cfg s b] at hsends
  obtain ⟨hsettled, hwait⟩ := settled_command_sends (s.writeByte b).2 hcmd
  have hall := hsends.trans hsettled hwait
  rw [writeByte_cfg] at hall
  have hstart : (s.goOn r).sending := goOn_cbyte s hf ht ▸ load_sending s r b _ true
  have hleft : q.afterByte s.cfg.errPolicy = rest := by
    rw [afterByte_command _ hcmd, htodo, ht, List.tail_cons]
  refine ⟨n + 1, q.byteDone s.cfg.errPolicy, by omega, hall.1, rfl, hop, ?_, hleft, ?_, hall.sending_of_lt hstart⟩
  · rw [Run.byteDone, hleft, hitem, htodo, ht]
    simp
  · rw [Run.byteDone, herr, hfail, status_of_fail (writeByte_status s b)]
    rfl

/-- A GBYTE at the head of the list is the WRITE_BYTE of the encoded character, in at most twelve events; a failure under
`Abort` takes the rest of the message with it (R104, R109, R110, R143). -/
theorem goOn_gbyte_returns {r : Run} {c : Byte} {rest : List Item} (hf : r.framing = .idle)
    (ht : r.todo = .gbyte c :: rest) :
    ∃ n r', n ≤ 12 ∧ (s.goOn r).ticks n = (s.writeByte (glyphCode s.cfg c)).2.goOn r' ∧ r'.framing = .idle ∧
      r'.op = r.op ∧
      r'.todo = (if (s.writeByte (glyphCode s.cfg c)).1 = .errIo ∧ s.cfg.errPolicy = .abort
        then rest.dropWhile Item.isGlyph else rest) ∧
      r'.err = r.err.join (s.writeByte (glyphCode s.cfg c)).1 ∧ ∀ m < n, ((s.goOn r).ticks m).sending := by
  obtain ⟨n, q, hn, hsends, hop, _, htodo, herr, hcmd, hfail⟩ := load_sends s r (glyphCode s.cfg c) false
  rw [← goOn_gbyte s hf ht, settled_glyph _ hcmd] at hsends
  have hstart : (s.goOn r).sending := goOn_gbyte s hf ht ▸ load_sending s r _ _ false
  have hstatus := writeByte_status s (glyphCode s.cfg c)
  refine ⟨n, q.byteDone s.cfg.errPolicy, hn, hsends.1, rfl, hop, ?_, ?_, hsends.sending_of_lt hstart⟩
  · have hfailed : q.fail = true ↔ (s.writeByte (glyphCode s.cfg c)).1 = .errIo := by
      rcases hstatus with h | h <;> simp [hfail, h]
    show q.afterByte s.cfg.errPolicy = _
    simp only [afterByte_glyph _ hcmd, hfailed, htodo, ht, List.tail_cons]
  · rw [Run.byteDone, herr, hfail, status_of_fail hstatus]

/-! ## Inside a byte -/

/-- How many events of the byte are left at most after the next one: the last place of a CMD_BYTE is its own delay, that of
another byte the delay of its last frame (R110). -/
def Run.eventsLeft (r : Run) : Nat := (if r.iscmd then 13 else 12) - r.framing.place.rank

theorem rank_place_le {framing : Framing} (h : framing ≠ .cw) : framing.place.rank ≤ 12 := by
  cases framing with
  | idle => simp [Framing.place, Place.rank]
  | tx nib k | wt nib k => cases nib <;> simp [Framing.place, Place.rank] <;> omega
  | cw => exact absurd rfl h

theorem one_le_rank_place {framing : Framing} (h : framing ≠ .idle) : 1 ≤ framing.place.rank := by
  cases framing with
  | idle => exact absurd rfl h
  | tx nib k | wt nib k => cases nib <;> simp [Framing.place, Place.rank] <;> omega
  | cw => simp [Framing.place, Place.rank]

/-- A byte being sent has at most 13 events left, or 12 if it is no CMD_BYTE, the next one among them (R110). -/
theorem Run.eventsLeft_lt {r : Run} (h : r.framing ≠ .idle) : r.eventsLeft < if r.iscmd then 13 else 12 := by
  have := one_le_rank_place h
  unfold Run.eventsLeft
  split <;> omega

/-- A later event of the same byte has fewer after it, if only a CMD_BYTE comes to a delay of its own. -/
theorem Run.Within.eventsLeft_lt {r q : Run} (h : r.Within q) (hcmd : q.iscmd = r.iscmd)
    (hcw : q.framing = .cw → r.iscmd = true) : q.eventsLeft < r.eventsLeft := by
  have hlater := h.later
  unfold Run.eventsLeft
  rw [hcmd]
  by_cases hq : q.framing = .cw
  · have hrank : q.framing.place.rank = 13 := by rw [hq]; rfl
    rw [if_pos (hcw hq)]
    omega
  · have hrank := rank_place_le hq
    split <;> omega

/-- The end of a settling delay keeps the byte's kind, and leads only a CMD_BYTE to a delay of its own (R106, R109). -/
theorem afterWait_iscmd (cfg : Config) (low : Byte) (nib : Half) (k : Fin 3) (r : Run) :
    (r.afterWait cfg low nib k).iscmd = r.iscmd ∧
      ((r.afterWait cfg low nib k).framing = .cw → r.iscmd = true) := by
  have hsettled : (r.settled cfg).iscmd = r.iscmd ∧ ((r.settled cfg).framing = .cw → r.iscmd = true) := by
    unfold Run.settled
    split
    · next h => exact ⟨rfl, fun _ => h⟩
    · exact ⟨rfl, nofun⟩
  unfold Run.afterWait
  split
  · exact hsettled
  · split
    · exact ⟨rfl, nofun⟩
    · cases nib with
      | high => exact ⟨rfl, nofun⟩
      | low => exact hsettled

/-- An event of a byte leaves the run at a later event of the byte, with fewer after it, or takes it back to IDLE, whatever
the items are (R109). -/
theorem emit_byte {r : Run} (hf : r.framing ≠ .idle) :
    (r.Within (s.emit r).2 ∧ (s.emit r).2.eventsLeft < r.eventsLeft) ∨
      (s.emit r).2 = r.byteDone s.cfg.errPolicy := by
  have within {q : Run} (h : r.Within q) (hcmd : q.iscmd = r.iscmd) (hcw : q.framing = .cw → r.iscmd = true) :
      r.Within q ∧ q.eventsLeft < r.eventsLeft := ⟨h, h.eventsLeft_lt hcmd hcw⟩
  cases hframing : r.framing with
  | idle => exact absurd hframing hf
  | tx nib k =>
    rw [emit_tx s hframing]
    exact .inl (within ⟨hf, by simp, rfl, rfl, rfl, by simp [hframing, Framing.place, Place.rank]⟩ rfl nofun)
  | wt nib k =>
    obtain ⟨hcmd, hcw⟩ := afterWait_iscmd s.cfg (s.baseFrame (lowNibble r.cur)) nib k r
    rw [emit_wt s hframing]
    rcases r.afterWait_cases s.cfg (s.baseFrame (lowNibble r.cur)) nib k with ⟨_, _, f, heq, _, hrank⟩ | heq | heq <;>
      rw [heq] at hcmd hcw ⊢
    · exact .inl (within ⟨hf, by simp, rfl, rfl, rfl, by rw [hframing]; exact hrank⟩ rfl hcw)
    · refine .inl (within ⟨hf, by simp, rfl, rfl, rfl, ?_⟩ rfl hcw)
      rw [hframing]
      exact Nat.lt_succ_of_le (rank_place_le (framing := .wt nib k) nofun)
    · exact .inr rfl
  | cw => exact .inr (by rw [emit_cw s hframing])

/-- Back at IDLE the sequencer goes on at a later item of the operation, or has none left. -/
theorem goOn_byteDone (r : Run) (policy : ErrPolicy) :
    (s.goOn (r.byteDone policy)).seq = none ∨
      ∃ q, (s.goOn (r.byteDone policy)).seq = some q ∧ q.op = r.op ∧ r.item < q.item := by
  have hlen := afterByte_length r policy
  rw [goOn_idle s rfl]
  cases htodo : r.todo with
  | nil =>
    have hnil : r.afterByte policy = [] := List.length_eq_zero_iff.mp (by simpa [htodo] using hlen)
    exact .inl (by rw [show (r.byteDone policy).todo = [] from hnil]; rfl)
  | cons item rest =>
    rcases pass_cases s _ (r.byteDone policy) rfl rfl with ⟨hnone, _⟩ | ⟨_, q, _, _, hseq, hop, hitem, _⟩
    · exact .inl hnone
    · refine .inr ⟨q, hseq, hop, ?_⟩
      rw [htodo, List.length_cons] at hlen
      simp only [Run.byteDone, htodo, List.length_cons] at hitem
      omega

/-- A byte being sent is left after its next event and those that are left at most (R110). -/
theorem leaves_byte {r : Run} (hseq : s.seq = some r) (hf : r.framing ≠ .idle) :
    ∃ n, 0 < n ∧ n ≤ r.eventsLeft + 1 ∧
      ((s.ticks n).seq = none ∨ ∃ q, (s.ticks n).seq = some q ∧ q.op = r.op ∧ r.item < q.item) ∧
      ∀ m < n, ∃ q, (s.ticks m).seq = some q ∧ q.item = r.item ∧ q.framing ≠ .idle := by
  induction hleft : r.eventsLeft using Nat.strongRecOn generalizing s r with
  | ind left ih =>
    have htick : s.tick = (s.emit r).1.goOn (s.emit r).2 := tick_busy s hseq
    rcases emit_byte s hf with ⟨hwithin, hfewer⟩ | hdone
    · rw [goOn_sending _ hwithin.byte] at htick
      obtain ⟨n, _, hn, hend, hsending⟩ :=
        ih _ (hleft ▸ hfewer) s.tick (r := (s.emit r).2) (by rw [htick]; rfl) hwithin.byte rfl
      rw [hwithin.op, hwithin.item] at hend
      refine ⟨n + 1, by omega, by omega, hend, fun m hm => ?_⟩
      cases m with
      | zero => exact ⟨r, hseq, rfl, hf⟩
      | succ m =>
        obtain ⟨q, hq, hitem, hbyte⟩ := hsending m (by omega)
        exact ⟨q, hq, hitem.trans hwithin.item, hbyte⟩
    · rw [hdone] at htick
      refine ⟨1, by omega, by omega, ?_, fun m hm => ?_⟩
      · rw [ticks_one, htick]
        exact goOn_byteDone _ r _
      · obtain rfl : m = 0 := by omega
        exact ⟨r, hseq, rfl, hf⟩

/-! ## Runs of small steps -/

/-- `s` is at `t` after `n` small steps, and busy until then. -/
def State.Runs (s : State) (n : Nat) (t : State) : Prop :=
  s.ticks n = t ∧ ∀ m < n, (s.ticks m).busy = true

theorem State.Runs.refl (s : State) : s.Runs 0 s := ⟨rfl, fun m hm => absurd hm (by omega)⟩

theorem State.Runs.trans {s t u : State} {m n : Nat} (h : s.Runs m t) (h' : t.Runs n u) : s.Runs (m + n) u := by
  obtain ⟨rfl, hbusy⟩ := h
  obtain ⟨rfl, hbusy'⟩ := h'
  refine ⟨ticks_add s m n, fun k hk => ?_⟩
  by_cases hlt : k < m
  · exact hbusy k hlt
  · obtain ⟨j, rfl⟩ : ∃ j, k = m + j := ⟨k - m, by omega⟩
    rw [ticks_add]
    exact hbusy' j (by omega)

theorem State.Runs.one {s t : State} (hbusy : s.busy = true) (h : s.tick = t) : s.Runs 1 t := by
  refine ⟨h, fun m hm => ?_⟩
  obtain rfl : m = 0 := by omega
  exact hbusy

theorem State.sending.busy {s : State} (h : s.sending) : s.busy = true := by
  obtain ⟨q, hseq, _⟩ := h
  simp [State.busy, hseq]

/-- An idle block, or one whose run stands at an event. -/
def State.Placed (s : State) : Prop := ∀ r, s.seq = some r → r.Placed

theorem goOn_placed {r : Run} (h : r.framing ≠ .idle → r.Placed) : (s.goOn r).Placed := by
  intro p hp
  by_cases hf : r.framing = .idle
  · obtain ⟨_, _, _, hstop⟩ := goOn_stopped s r hf
    rcases hstop.stands with ⟨_, hnone⟩ | ⟨q, hq, _, hplaced, _⟩
    · simp [hnone] at hp
    · exact Option.some.inj (hq.symm.trans hp) ▸ hplaced
  · rw [goOn_sending s hf] at hp
    exact Option.some.inj hp ▸ h hf

theorem tick_placed (h : s.Placed) : s.tick.Placed := by
  cases hseq : s.seq with
  | none => rwa [tick_idle s hseq]
  | some r =>
    rw [tick_busy s hseq]
    exact goOn_placed _ (emit_placed s (h r hseq))

/-- A run has exactly as many events as small steps (R28). -/
theorem State.Runs.trace_length {s t : State} {n : Nat} (h : s.Runs n t) (hplaced : s.Placed) :
    t.bus.trace.length = s.bus.trace.length + n := by
  induction n generalizing s with
  | zero => rw [← h.1]; rfl
  | succ n ih =>
    obtain ⟨r, hseq⟩ := Option.isSome_iff_exists.mp (h.2 0 (by omega))
    obtain ⟨ev, _, htrace⟩ := tick_trace s hseq (hplaced r hseq)
    have hrest : s.tick.Runs n t := ⟨h.1, fun m hm => h.2 (m + 1) (by omega)⟩
    rw [ih hrest (tick_placed s hplaced), htrace, List.length_append, List.length_singleton]
    omega

/-! ## Items and the pseudocode they stand for -/

/-- The item takes the block from `s` to `u`, whatever comes after it, in some small steps or in none. -/
def State.Passes (s : State) (item : Item) (u : State) : Prop :=
  ∀ r rest, r.framing = .idle → r.todo = item :: rest → ∃ n, (s.goOn r).Runs n (u.goOn r.pop)

/-- The items, with `rest` behind them, do what the pseudocode with result `res` does: they lead to its state and join its
status into the operation's error (R108, R120, R126). -/
def State.Performs (s : State) (items rest : List Item) (res : Status × State) : Prop :=
  ∀ r, r.framing = .idle → r.todo = items ++ rest → r.err = .ok ∨ r.err = .errIo →
    ∃ n r', (s.goOn r).Runs n (res.2.goOn r') ∧ r'.framing = .idle ∧ r'.todo = rest ∧ r'.err = r.err.join res.1

/-! ### Items that send no byte -/

theorem passes_of_pass {item : Item} {u : State} (h : ∀ r rest, s.pass (item :: rest) r = u.pass rest r.pop) :
    s.Passes item u := by
  intro r rest hf ht
  refine ⟨0, ?_⟩
  rw [goOn_idle s hf, goOn_idle u (r := r.pop) hf, ht, h, Run.pop, ht]
  exact .refl _

theorem passes_setPhase (p : Phase) : s.Passes (.setPhase p) (s.setPhase p) := passes_of_pass s fun _ _ => rfl

theorem passes_setBacklight (v : Bool) : s.Passes (.setBacklight v) (s.setBacklight v) := passes_of_pass s fun _ _ => rfl

theorem passes_setRegisterSelect (v : RegisterSelect) : s.Passes (.setRegisterSelect v) (s.setRegisterSelect v) :=
  passes_of_pass s fun _ _ => rfl

theorem callItem_bus_began (r : Run) (h : s.bus.beginAnswer 0 = true) :
    s.callItem r .bus = ((s.setBus s.bus.callBegin.2).setPhase .busReady, r.pop) := by
  simp [State.callItem, h]

theorem callItem_bus_cannotStart (r : Run) (h : s.bus.beginAnswer 0 = false) :
    s.callItem r .bus = (s.setBus s.bus.callBegin.2, { r.pop with todo := [.setPhase .failed], err := .errInit }) := by
  simp [State.callItem, h]

/-- The call of an item does not read the sequencer. -/
theorem setSeq_callItem (q : Option Run) (r : Run) (item : Item) :
    (s.setSeq q).callItem r item = ((s.callItem r item).1.setSeq q, (s.callItem r item).2) := by
  cases item with
  | bus =>
    cases h : s.bus.beginAnswer 0 with
    | true => rw [callItem_bus_began s r h, callItem_bus_began (s.setSeq q) r h]; rfl
    | false => rw [callItem_bus_cannotStart s r h, callItem_bus_cannotStart (s.setSeq q) r h]; rfl
  | _ => rfl

/-- The small step of an item that calls the transport. -/
theorem call_runs {r : Run} {item : Item} {rest : List Item} (hcalls : item.calls = true) (hf : r.framing = .idle)
    (ht : r.todo = item :: rest) : (s.goOn r).Runs 1 ((s.callItem r item).1.goOn (s.callItem r item).2) := by
  have hstart : s.goOn r = s.setSeq (some r) := by
    rw [goOn_idle s hf, ht]
    cases item with
    | bus | addr | release => rfl
    | _ => cases hcalls
  rw [hstart]
  refine .one rfl ?_
  rw [tick_call _ rfl hf ht, setSeq_callItem, setSeq_goOn]

theorem passes_addr : s.Passes .addr (s.setBus (s.bus.callSetAddress s.cfg.i2cAddr)) :=
  fun _ _ hf ht => ⟨1, call_runs s rfl hf ht⟩

theorem passes_release : s.Passes .release (s.setBus s.bus.callEnd) :=
  fun _ _ hf ht => ⟨1, call_runs s rfl hf ht⟩

theorem passes_bus (h : s.bus.beginAnswer 0 = true) :
    s.Passes .bus ((s.setBus s.bus.callBegin.2).setPhase .busReady) := by
  intro r rest hf ht
  have hruns := call_runs s rfl hf ht
  rw [callItem_bus_began s r h] at hruns
  exact ⟨1, hruns⟩

/-! ### Putting items together -/

section Composition

variable {s} {items more rest : List Item} {item : Item} {u : State} {res : Status × State}

/-- An item that sends no byte, before others. -/
theorem State.Passes.performs (h : s.Passes item u) (h' : u.Performs items rest res) :
    s.Performs (item :: items) rest res := by
  intro r hf ht herr
  obtain ⟨n, hn⟩ := h r _ hf ht
  obtain ⟨m, r', hm, hr'⟩ := h' r.pop hf (by rw [Run.pop, ht]; rfl) herr
  exact ⟨n + m, r', hn.trans hm, hr'⟩

/-- An item that sends no byte, after others. -/
theorem State.Performs.passes (h : s.Performs items (item :: rest) res) (h' : res.2.Passes item u) :
    s.Performs (items ++ [item]) rest (res.1, u) := by
  intro r hf ht herr
  obtain ⟨n, r', hn, hf', ht', herr'⟩ := h r hf (by simpa using ht) herr
  obtain ⟨m, hm⟩ := h' r' rest hf' ht'
  exact ⟨n + m, r'.pop, hn.trans hm, hf', by rw [Run.pop, ht', List.tail_cons], herr'⟩

/-- Items after items, the failures of both remembered (R120, R126). -/
theorem State.Performs.joinThen {k : State → Status × State} (h : s.Performs items (more ++ rest) res)
    (h' : res.2.Performs more rest (k res.2)) : s.Performs (items ++ more) rest (State.joinThen res k) := by
  intro r hf ht herr
  obtain ⟨n, r', hn, hf', ht', herr'⟩ := h r hf (by simpa using ht) herr
  obtain ⟨m, q, hm, hfq, htq, herrq⟩ := h' r' hf' ht' (herr' ▸ join_cases _ _)
  exact ⟨n + m, q, hn.trans hm, hfq, htq, by rw [herrq, herr', join_assoc]; rfl⟩

end Composition

/-! ### Items that send a byte -/

/-- A `CBYTE` is CMD_BYTE (R106, R108). -/
theorem performs_cbyte (b : Byte) (rest : List Item) : s.Performs [.cbyte b] rest (s.cmdByte b) := by
  intro r hf ht _
  obtain ⟨n, r', _, hn, hf', _, _, ht', herr, hsending⟩ := goOn_cbyte_returns s hf ht
  exact ⟨n, r', ⟨hn, fun m hm => (hsending m hm).busy⟩, hf', ht', herr⟩

/-- Glyph items are the characters of a message (R143, R150), if no other glyph item comes right after them. -/
theorem performs_text (text : List Byte) (rest : List Item) (hnull : (0 : Byte) ∉ text)
    (hrest : rest.dropWhile Item.isGlyph = rest) : s.Performs (text.map .gbyte) rest (s.sendText text) := by
  induction text generalizing s with
  | nil => exact fun r hf ht herr => ⟨0, r, .refl _, hf, ht, (join_ok herr).symm⟩
  | cons c text ih =>
    intro r hf ht herr
    obtain ⟨hc, htext⟩ : c ≠ 0 ∧ 0 ∉ text := 
      ⟨(List.ne_of_not_mem_cons hnull).symm, List.not_mem_of_not_mem_cons hnull⟩
    have hglyphs : (text.map Item.gbyte ++ rest).dropWhile Item.isGlyph = rest := by
      rw [List.dropWhile_append_of_pos (by simp [Item.isGlyph]), hrest]
    obtain ⟨n, r', _, hn, hf', _, ht', herr', hsending⟩ :=
      goOn_gbyte_returns s (c := c) (rest := text.map Item.gbyte ++ rest) hf ht
    have hbyte : (s.goOn r).Runs n _ := ⟨hn, fun m hm => (hsending m hm).busy⟩
    have hstatus := writeByte_status s (glyphCode s.cfg c)
    rw [sendText_cons s hc]
    by_cases hcut : (s.writeByte (glyphCode s.cfg c)).1 = .errIo ∧ s.cfg.errPolicy = .abort
    · rw [if_pos hcut, hglyphs] at ht'
      rw [if_pos ⟨by simp [hcut.1], hcut.2⟩]
      exact ⟨n, r', hbyte, hf', ht', by rw [herr', hcut.1]⟩
    · rw [if_neg hcut] at ht'
      rw [if_neg fun h => hcut ⟨hstatus.resolve_left h.1, h.2⟩]
      obtain ⟨m, q, hm, hfq, htq, herrq⟩ := ih (s.writeByte (glyphCode s.cfg c)).2 htext r' hf' ht' (herr' ▸ join_cases _ _)
      exact ⟨n + m, q, hbyte.trans hm, hfq, htq, by rw [herrq, herr', join_assoc]⟩

/-! ### The operations -/

/-- MSG_BODY is its item list (R143, R150). -/
theorem performs_msgBody (text : List Byte) (rest : List Item) (hrest : rest.dropWhile Item.isGlyph = rest) :
    s.Performs (.setRegisterSelect .character :: (effectiveText text).map .gbyte) rest (s.msgBody text) := by
  rw [State.msgBody, ← sendText_effectiveText]
  exact (passes_setRegisterSelect s .character).performs (performs_text _ _ rest (effectiveText_no_null text) hrest)

/-- A command byte under `registerSelect` = `Command`, the body of CLEAR, HOME and GOTO (R145 to R147, R150). -/
theorem performs_command (b : Byte) (rest : List Item) :
    s.Performs [.setRegisterSelect .command, .cbyte b] rest ((s.setRegisterSelect .command).cmdByte b) :=
  (passes_setRegisterSelect s .command).performs (performs_cbyte _ b rest)

theorem performs_enterFourBit (rest : List Item) :
    s.Performs [.addr, .setRegisterSelect .command, .cbyte s.cfg.cmdFourbit, .cbyte s.cfg.cmdFuncset,
      .setPhase .fourBitMode] rest s.enterFourBit := by
  refine (passes_addr s).performs ((passes_setRegisterSelect _ .command).performs ?_)
  refine State.Performs.passes (items := [_, _]) (State.Performs.joinThen (items := [_]) (performs_cbyte _ _ _) ?_)
    (passes_setPhase _ .fourBitMode)
  simpa using performs_cbyte _ s.cfg.cmdFuncset _

theorem performs_configure (rest : List Item) :
    s.Performs [.cbyte s.cfg.cmdDispoff, .cbyte s.cfg.cmdClear, .cbyte s.cfg.cmdEntry, .cbyte s.cfg.cmdDispon,
      .setPhase .configured] rest s.configure := by
  refine State.Performs.passes (items := [_, _, _, _]) ?_ (passes_setPhase _ .configured)
  refine State.Performs.joinThen (items := [_]) (performs_cbyte s _ _) ?_
  refine State.Performs.joinThen (items := [_]) (by simpa using performs_cbyte _ s.cfg.cmdClear _) ?_
  refine State.Performs.joinThen (items := [_]) (by simpa using performs_cbyte _ s.cfg.cmdEntry _) ?_
  simpa using performs_cbyte _ s.cfg.cmdDispon _

theorem performs_selftest (rest : List Item) :
    s.Performs (.setBacklight true :: .setRegisterSelect .character ::
      ((effectiveText s.cfg.selftestText).map .gbyte ++ [.setPhase .ready])) rest s.selftest :=
  ((passes_setBacklight s true).performs (performs_msgBody _ s.cfg.selftestText _ rfl)).passes
    (passes_setPhase _ .ready)

theorem initBody_joinThen (h : s.bus.beginAnswer 0 = true) :
    s.initBody = State.joinThen ((s.setBus s.bus.callBegin.2).setPhase .busReady).enterFourBit fun u =>
      State.joinThen u.configure fun u => u.selftest := by
  simp [State.initBody, h]

/-- INIT's body is its item list, if `T.begin()` answers `true` (R120, R130). -/
theorem performs_initBody (arg : Byte) (h : s.bus.beginAnswer 0 = true) :
    s.Performs (itemList s.cfg (.init arg)) [] s.initBody := by
  rw [initBody_joinThen s h]
  have hcfg := (extends_enterFourBit ((s.setBus s.bus.callBegin.2).setPhase .busReady)).cfg
  have hcfg' := (extends_configure ((s.setBus s.bus.callBegin.2).setPhase .busReady).enterFourBit.2).cfg.trans hcfg
  have hconfigure := performs_configure ((s.setBus s.bus.callBegin.2).setPhase .busReady).enterFourBit.2
  have hselftest := performs_selftest ((s.setBus s.bus.callBegin.2).setPhase .busReady).enterFourBit.2.configure.2 []
  rw [hcfg] at hconfigure
  rw [hcfg'] at hselftest
  exact (passes_bus s h).performs ((performs_enterFourBit _ _).joinThen ((hconfigure _).joinThen hselftest))

theorem performs_teardownBody (arg : Byte) : s.Performs (itemList s.cfg (.teardown arg)) [] s.teardownBody := by
  have hnothing (u : State) : u.Performs [] [] (.ok, u) := fun r hf ht herr => ⟨0, r, .refl _, hf, ht, (join_ok herr).symm⟩
  exact (passes_release s).performs ((passes_setBacklight _ false).performs
    ((passes_setRegisterSelect _ .command).performs ((passes_setPhase _ .uninitialized).performs (hnothing _))))

/-! ## A host command event by event -/

section Accept

variable {s} {i : Instr}

/-- At the end of its list an operation returns its status (R140). -/
theorem State.Performs.runs {items : List Item} {res : Status × State} (h : s.Performs items [] res)
    (hstatus : res.1 = .ok ∨ res.1 = .errIo) (hidle : res.2.seq = none) :
    ∃ n, (s.goOn (Run.begin i items)).Runs n (res.2.respond res.1) := by
  obtain ⟨n, r', hn, hf, ht, herr⟩ := h (Run.begin i items) rfl (List.append_nil _).symm (.inl rfl)
  rw [goOn_idle _ hf, ht, State.pass, herr, Run.begin, ok_join hstatus, ← hidle, setSeq_self] at hn
  exact ⟨n, hn⟩

/-- An admitted operation whose item list is its body runs to where the body leads. -/
theorem runs_of_performs {need : Phase} {body : State → Status × State} (hidle : s.seq = none)
    (hphase : s.phase = need) (hext : s.Extends (body s).2) (hstatus : (body s).1 = .ok ∨ (body s).1 = .errIo)
    (h : s.Performs (itemList s.cfg i) [] (body s)) :
    ∃ n, (s.goOn (Run.begin i (itemList s.cfg i))).Runs n (s.operate need body) := by
  obtain ⟨_, hseq, _⟩ := hext.fields
  rw [operate_admitted s body hphase]
  exact h.runs hstatus (hseq.trans hidle)

/-- An INIT whose `T.begin()` is answered `false` is over after that one event (R121, R130). -/
theorem init_cannotStart_runs (arg : Byte) (hidle : s.seq = none) (h : s.bus.beginAnswer 0 = false) :
    (s.goOn (Run.begin (.init arg) (itemList s.cfg (.init arg)))).Runs 1 (s.initBody.2.respond s.initBody.1) := by
  have hruns := call_runs s (r := Run.begin (.init arg) (itemList s.cfg (.init arg))) (item := .bus) rfl rfl rfl
  have hbody : s.initBody = (.errInit, (s.setBus s.bus.callBegin.2).setPhase .failed) := by simp [State.initBody, h]
  have hend : ((s.setBus s.bus.callBegin.2).setPhase .failed).setSeq none =
      (s.setBus s.bus.callBegin.2).setPhase .failed := by
    rw [← hidle]
    rfl
  rw [callItem_bus_cannotStart s _ h] at hruns
  rw [hbody, ← hend]
  exact hruns

/-- An admitted operation, event by event, runs to where the whole operation leads. -/
theorem exec_runs_of_admitted (hidle : s.seq = none) (h : Admitted s i) :
    ∃ t, exec i s = .next t ∧ ∃ n, (s.goOn (Run.begin i (itemList s.cfg i))).Runs n t := by
  cases h with
  | init arg hphase =>
    refine ⟨_, rfl, ?_⟩
    cases hbegin : s.bus.beginAnswer 0 with
    | false =>
      rw [operate_admitted s State.initBody hphase]
      exact ⟨1, init_cannotStart_runs arg hidle hbegin⟩
    | true =>
      have hstatus : s.initBody.1 = .ok ∨ s.initBody.1 = .errIo := by
        rw [initBody_joinThen s hbegin]
        exact join_cases _ _
      exact runs_of_performs hidle hphase (extends_initBody s) hstatus (performs_initBody s arg hbegin)
  | msg arg text hphase =>
    have hperforms : s.Performs (itemList s.cfg (.msg arg text)) [] (s.msgBody text) := performs_msgBody s text [] rfl
    exact ⟨_, rfl, runs_of_performs hidle hphase (extends_msgBody s text) (sendText_status _ text) hperforms⟩
  | clear arg hphase | home arg hphase =>
    exact ⟨_, rfl, runs_of_performs hidle hphase (extends_command s _) (cmdByte_status _ _) (performs_command s _ [])⟩
  | goto pos hphase hpos =>
    refine ⟨_, rfl, runs_of_performs hidle hphase ?_ ?_ ?_⟩
    all_goals rw [if_pos hpos]
    · exact extends_command s _
    · exact cmdByte_status _ _
    · exact performs_command s _ []
  | teardown arg hphase =>
    exact ⟨_, rfl, runs_of_performs hidle hphase (extends_teardownBody s) (.inl rfl) (performs_teardownBody s arg)⟩

end Accept

/-! ## The framing primitives -/

/-- The state is changed in its bus alone, and there by writes and added events (R100). -/
def State.Transmits (s t : State) : Prop := ∃ n evs, t = s.setBus (s.bus.after n evs)

theorem transmits_writeNibble (n : Byte) : s.Transmits (s.writeNibble n).2 := by
  rw [writeNibble_eq]
  rcases pulse_cases s.bus s.cfg.tSettle (s.baseFrame n) with ⟨_, h⟩ | ⟨_, _, _, _, h⟩ <;> rw [h] <;> exact ⟨_, _, rfl⟩

theorem transmits_writeByte (code : Byte) : s.Transmits (s.writeByte code).2 := by
  rcases writeByte_cases s code with ⟨_, h⟩ | ⟨_, _, _, _, h⟩ <;> rw [h] <;> exact ⟨_, _, rfl⟩

theorem transmits_cmdByte (b : Byte) : s.Transmits (s.cmdByte b).2 := by
  obtain ⟨n, evs, h⟩ := transmits_writeByte s b
  rw [cmdByte_eq, h, setBus_bus, after_after]
  exact ⟨_, _, rfl⟩

theorem transmits_frame (f : Byte) : s.Transmits (s.frame f).2 := by
  rw [frame_eq]
  exact ⟨_, _, rfl⟩

theorem exec_primitive {i : Instr} {body : State → Status × State} (h : exec i s = .next (s.runPrimitive body))
    (htransmits : s.Transmits (body s).2) :
    ∃ n evs res, exec i s = .next ((s.setBus (s.bus.after n evs)).handBack res) := by
  obtain ⟨n, evs, hbody⟩ := htransmits
  exact ⟨n, evs, _, by rw [h, State.runPrimitive, hbody]⟩

/-- Everything a row that is no host operation can do, unless it is a read frame: write to the transport and hand a result
back (R92, R100). -/
theorem exec_of_not_host {i : Instr} (hi : i.isHost = false) (hread : ∀ n bl en rs, i ≠ .frameRwSet n bl en rs) :
    ∃ n evs res, exec i s = .next ((s.setBus (s.bus.after n evs)).handBack res) := by
  cases i with
  | init | msg | clear | home | goto | teardown | reserved6 | reserved7 => cases hi
  | frameRwSet n bl en rs => exact absurd rfl (hread n bl en rs)
  | frameEnLow n bl rs | frameEnHigh n bl rs => exact exec_primitive s rfl (transmits_frame s _)
  | lcdFourbit | lcdFuncset | lcdDispoff | lcdClear | lcdEntry | lcdDispon | lcdHome | lcdSetddram =>
    exact exec_primitive s (exec_of_commandByte s rfl) (transmits_cmdByte s _)
  | glyph g => exact exec_primitive s rfl (transmits_writeByte s g)
  | encode c => exact ⟨0, [], _, by rw [after_nothing, setBus_self]; exact exec_encode s c⟩
  | writeNibble n => exact exec_primitive s rfl (transmits_writeNibble s n)
  | writeByte code => exact exec_primitive s rfl (transmits_writeByte s code)
  | cmdByte b => exact exec_primitive s rfl (transmits_cmdByte s b)

theorem exec_writeNibble (n : Byte) : exec (.writeNibble n) s = .next (s.runPrimitive (State.writeNibble n)) := rfl

theorem exec_writeByte (code : Byte) : exec (.writeByte code) s = .next (s.runPrimitive (State.writeByte code)) := rfl

theorem exec_cmdByte (b : Byte) : exec (.cmdByte b) s = .next (s.runPrimitive (State.cmdByte b)) := rfl

/-! ## The obligations -/

/-- Settles O57: a byte from IDLE is the byte of the pseudocode, and a CMD_BYTE has one more delay. -/
theorem framingMachineRefinesPseudocode : Obligations.FramingMachineRefinesPseudocode :=
  fun s _ _ hf => ⟨fun _ ht => goOn_cbyte_returns s hf ht, fun _ ht => goOn_gbyte_returns s hf ht⟩

/-- Settles O58: a refusal takes no step, and an admitted operation performs its item list, one event a step. -/
theorem eventRunRefinesTransaction : Obligations.EventRunRefinesTransaction := by
  intro s i hidle hi
  cases hadm : s.admission i with
  | some st =>
    refine ⟨0, _, exec_refused s hi hadm, ?_, rfl, fun m hm => absurd hm (Nat.not_lt_zero m)⟩
    rw [ticks_zero, State.accept, hadm]
  | none =>
    obtain ⟨t, hexec, n, hruns⟩ := exec_runs_of_admitted hidle (admitted_of_admission s hadm)
    have haccept : s.accept i = s.goOn (Run.begin i (itemList s.cfg i)) := by rw [State.accept, hadm]
    have hlength := hruns.trace_length (goOn_placed s fun hne => absurd rfl hne)
    rw [goOn_bus] at hlength
    rw [← haccept] at hruns
    exact ⟨n, t, hexec, hruns.1, hlength, hruns.2⟩

/-- Settles O59: at its first event a byte has 13 events, or 12, and each later place has fewer left. -/
theorem framingReturnsWithinThirteen : Obligations.FramingReturnsWithinThirteen := by
  intro s r hseq hf
  obtain ⟨n, hpos, hn, hleaves⟩ := leaves_byte s hseq hf
  have hbound := r.eventsLeft_lt hf
  exact ⟨n, hpos, by omega, hleaves⟩

/-- Settles O15: WRITE_NIBBLE run as an instruction is its enable pulse, cut short at the frame that fails. -/
theorem writeNibbleCutShort : Obligations.WriteNibbleCutShort := by
  intro s n k hk haccepts hst
  rw [exec_writeNibble, runPrimitive_eq s (writeNibble_cut s n hk haccepts hst)]

/-- Settles O16: WRITE_BYTE run as an instruction is its two nibbles. -/
theorem writeByteAccepted : Obligations.WriteByteAccepted := by
  intro s code haccepts
  rw [exec_writeByte, runPrimitive_eq s (writeByte_accepted s code haccepts)]

/-- Settles O17: the failing frame may be in either nibble, and nothing follows its delay. -/
theorem writeByteCutShort : Obligations.WriteByteCutShort := by
  intro s code k hk haccepts hst
  rw [exec_writeByte, runPrimitive_eq s (writeByte_cut s code hk haccepts hst)]

/-- Settles O18: CMD_BYTE is WRITE_BYTE, whole or cut short, and its own delay. -/
theorem cmdByteWaitsAlways : Obligations.CmdByteWaitsAlways := by
  intro s b
  rw [exec_cmdByte]
  exact ⟨fun haccepts => congrArg _ (runPrimitive_eq s (cmdByte_accepted s b haccepts)),
    fun k hk haccepts hst => congrArg _ (runPrimitive_eq s (cmdByte_cut s b hk haccepts hst))⟩

/-- Settles O23: such a row writes to the transport, if it is not ENCODE, and hands a result back. -/
theorem primitivesFrame : Obligations.PrimitivesFrame := by
  intro s i hi hread
  obtain ⟨n, evs, res, hexec⟩ := exec_of_not_host s hi hread
  refine ⟨_, evs, hexec, rfl, rfl, rfl, rfl, rfl, rfl, rfl, rfl, rfl, rfl, fun c hc => ?_⟩
  rw [hc, exec_encode] at hexec
  rw [← Host.Outcome.next.inj hexec, handBack_bus]

/-- Settles O14: the three frames of the nibble, each with its delay, written out. -/
theorem writeNibbleAccepted : Obligations.WriteNibbleAccepted := by
  intro s n haccepts
  rw [exec_writeNibble, runPrimitive_eq s (writeNibble_accepted s n haccepts)]
  rfl

end Sys2Proof.Machine

/-! The obligations of 42_init.md that concern INIT and TEARDOWN run whole: an INIT whose every answer is good (R125), one
whose writes may fail (R126), one whose transport cannot start (R121), and TEARDOWN (R127).  INIT is described twice along
its parts: what it leaves if its writes are accepted (`State.Succeeds`), and what its status says whatever they are answered
(`State.Reports`). -/

namespace Sys2Proof.Machine

variable (s : State)

/-! ## INIT on a transport that accepts -/

/-- If the next `n` writes are accepted, the result `res` is `OK` and the state `t`, but with the bus of `s` after those
writes and these events. -/
def State.Succeeds (s t : State) (n : Nat) (evs : List Event) (res : Status × State) : Prop :=
  s.bus.accepts n → res = (.ok, t.setBus (s.bus.after n evs))

theorem State.Succeeds.setPhase {s t : State} {n : Nat} {evs : List Event} {res : Status × State} (p : Phase)
    (h : s.Succeeds t n evs res) : s.Succeeds (t.setPhase p) n evs (res.1, res.2.setPhase p) := fun ha => by
  rw [h ha]
  rfl

/-- One part of INIT, then the next (R120). -/
theorem State.Succeeds.joinThen {s t u : State} {m n : Nat} {evs evs' : List Event} {res : Status × State}
    {k : State → Status × State} (h : s.Succeeds t m evs res)
    (hk : ∀ bus, (t.setBus bus).Succeeds u n evs' (k (t.setBus bus))) :
    s.Succeeds u (m + n) (evs ++ evs') (State.joinThen res k) := fun ha => by
  obtain ⟨hfirst, hrest⟩ := (accepts_add s.bus m n evs).mp ha
  have hsecond := hk (s.bus.after m evs) hrest
  rw [setBus_bus, after_after] at hsecond
  rw [h hfirst, State.joinThen, hsecond]
  rfl

/-- Events that need no answer, before a part of INIT. -/
theorem State.Succeeds.log {s t : State} {n : Nat} {evs pre : List Event} {res : Status × State}
    (h : (s.setBus (s.bus.log pre)).Succeeds t n evs res) : s.Succeeds t n (pre ++ evs) res := fun ha => by
  rw [h ha, setBus_bus, log_eq_after, after_after, Nat.zero_add]

/-- A command byte, in the closed form of the statements (R106). -/
theorem succeeds_cmdByte (b : Byte) (hw : s.readWrite = .write) (hr : s.registerSelect = .command) :
    s.Succeeds s 6 (commandEvents s.cfg s.backlightOn b) (s.cmdByte b) := fun ha => by
  rw [cmdByte_accepted s b ha, byteFrames_eq_frameOf s hw, hr]
  rfl

/-- `BusReady → FourBitMode` (R122). -/
theorem succeeds_enterFourBit (hw : s.readWrite = .write) :
    s.Succeeds ((s.setRegisterSelect .command).setPhase .fourBitMode) (6 + 6)
      ([.setAddr s.cfg.i2cAddr] ++ (commandEvents s.cfg s.backlightOn s.cfg.cmdFourbit ++
        commandEvents s.cfg s.backlightOn s.cfg.cmdFuncset)) s.enterFourBit := by
  refine State.Succeeds.setPhase .fourBitMode (State.Succeeds.log ?_)
  refine (succeeds_cmdByte ((s.setBus (s.bus.callSetAddress s.cfg.i2cAddr)).setRegisterSelect .command) _ hw rfl).joinThen
    fun bus hrest => ?_
  exact succeeds_cmdByte (State.setBus bus _) _ hw rfl hrest

/-- `FourBitMode → Configured` (R123). -/
theorem succeeds_configure (hw : s.readWrite = .write) (hr : s.registerSelect = .command) :
    s.Succeeds (s.setPhase .configured) (6 + (6 + (6 + 6)))
      (commandEvents s.cfg s.backlightOn s.cfg.cmdDispoff ++ (commandEvents s.cfg s.backlightOn s.cfg.cmdClear ++
        (commandEvents s.cfg s.backlightOn s.cfg.cmdEntry ++ commandEvents s.cfg s.backlightOn s.cfg.cmdDispon)))
      s.configure := by
  have hbyte (b : Byte) (bus : Bus) := succeeds_cmdByte (s.setBus bus) b hw hr
  refine State.Succeeds.setPhase .configured ?_
  refine (succeeds_cmdByte s _ hw hr).joinThen fun bus => ?_
  refine State.Succeeds.joinThen (hbyte s.cfg.cmdClear bus) fun bus => ?_
  refine State.Succeeds.joinThen (hbyte s.cfg.cmdEntry bus) fun bus => ?_
  exact hbyte s.cfg.cmdDispon bus

/-- `Configured → Ready` (R124). -/
theorem succeeds_selftest (hw : s.readWrite = .write) :
    s.Succeeds (((s.setBacklight true).setRegisterSelect .character).setPhase .ready)
      (6 * (effectiveText s.cfg.selftestText).length) (textEvents s.cfg true (effectiveText s.cfg.selftestText))
      s.selftest := by
  refine State.Succeeds.setPhase .ready fun ha => ?_
  rw [State.msgBody, ← sendText_effectiveText]
  exact sendText_accepted ((s.setBacklight true).setRegisterSelect .character) _ hw rfl (effectiveText_no_null _) ha

/-- INIT's body: `T.begin()`, then the three parts on the bus it leaves (R120, R125). -/
theorem initBody_accepted (hbegin : s.bus.beginAnswer 0 = true) (hw : s.readWrite = .write)
    (ha : s.bus.accepts (12 + (24 + 6 * (effectiveText s.cfg.selftestText).length))) :
    s.initBody = (.ok, (((s.setBacklight true).setRegisterSelect .character).setPhase .ready).setBus
      (s.bus.callBegin.2.after (12 + (24 + 6 * (effectiveText s.cfg.selftestText).length))
        ([.setAddr s.cfg.i2cAddr] ++ (commandEvents s.cfg s.backlightOn s.cfg.cmdFourbit ++
            commandEvents s.cfg s.backlightOn s.cfg.cmdFuncset) ++
          ((commandEvents s.cfg s.backlightOn s.cfg.cmdDispoff ++ (commandEvents s.cfg s.backlightOn s.cfg.cmdClear ++
            (commandEvents s.cfg s.backlightOn s.cfg.cmdEntry ++ commandEvents s.cfg s.backlightOn s.cfg.cmdDispon))) ++
          textEvents s.cfg true (effectiveText s.cfg.selftestText))))) := by
  rw [initBody_joinThen s hbegin]
  refine State.Succeeds.joinThen (succeeds_enterFourBit ((s.setBus s.bus.callBegin.2).setPhase .busReady) hw)
    (fun _ => ?_) ha
  refine State.Succeeds.joinThen (succeeds_configure _ hw rfl) fun bus hrest => ?_
  exact succeeds_selftest (State.setBus bus _) hw hrest

/-- INIT's body writes the three fields and the bus, whatever the writes are answered (R126). -/
theorem initBody_unchanged (h : s.bus.beginAnswer 0 = true) :
    ∃ bus, s.initBody.2 = (((s.setBacklight true).setRegisterSelect .character).setPhase .ready).setBus bus := by
  rw [initBody_starts s h]
  obtain ⟨_, hfourBit⟩ := enterFourBit_unchanged ((s.setBus s.bus.callBegin.2).setPhase .busReady)
  obtain ⟨_, hconfigure⟩ := configure_unchanged ((s.setBus s.bus.callBegin.2).setPhase .busReady).enterFourBit.2
  obtain ⟨bus, hselftest⟩ :=
    selftest_unchanged ((s.setBus s.bus.callBegin.2).setPhase .busReady).enterFourBit.2.configure.2
  rw [hselftest, hconfigure, hfourBit]
  exact ⟨bus, rfl⟩

/-! ## INIT's status -/

/-- The status says what the writes among these events were answered: `OK` that all were accepted, `ERR_IO` that one was
not (R126, R161). -/
def Status.Reports (st : Status) (evs : List Event) : Prop :=
  st = .ok ∧ (∀ x ∈ txStatuses evs, x = 0) ∨ st = .errIo ∧ ∃ x ∈ txStatuses evs, x ≠ 0

/-- The result's status reports the writes that its state has made since `s`. -/
def State.Reports (s : State) (res : Status × State) : Prop :=
  ∃ evs, res.2.bus.trace = s.bus.trace ++ evs ∧ res.1.Reports evs

/-- The join of two statuses reports what each of them does (R120). -/
theorem Status.Reports.join {a b : Status} {evs evs' : List Event} (ha : a.Reports evs) (hb : b.Reports evs') :
    (a.join b).Reports (evs ++ evs') := by
  rcases ha with ⟨rfl, hall⟩ | ⟨rfl, x, hx, hne⟩
  · rcases hb with ⟨rfl, hall'⟩ | ⟨rfl, x, hx, hne⟩
    · refine .inl ⟨rfl, fun x hx => ?_⟩
      rw [txStatuses_append] at hx
      exact (List.mem_append.mp hx).elim (hall x) (hall' x)
    · exact .inr ⟨rfl, x, by simp [hx], hne⟩
  · exact .inr ⟨rfl, x, by simp [hx], hne⟩

theorem reports_acceptedFrames (settle : Micros) (fs : List Byte) : Status.ok.Reports (acceptedFrames settle fs) := by
  refine .inl ⟨rfl, fun x hx => ?_⟩
  rw [txStatuses_acceptedFrames] at hx
  exact (List.mem_map.mp hx).elim fun _ h => h.2.symm

theorem reports_cutFrames (settle : Micros) {fs : List Byte} {k : Nat} {st : Int} (hk : k < fs.length) (hst : st ≠ 0) :
    Status.errIo.Reports (cutFrames settle fs k st) :=
  .inr ⟨rfl, st, mem_txStatuses_cutFrames settle fs k st hk, hst⟩

/-- Two parts of an operation, joined: both make their report, whatever the first one's is (R126). -/
theorem State.Reports.join {s : State} {res res' : Status × State} (h : s.Reports res) (h' : res.2.Reports res') :
    s.Reports (res.1.join res'.1, res'.2) := by
  obtain ⟨evs, htrace, hevs⟩ := h
  obtain ⟨evs', htrace', hevs'⟩ := h'
  exact ⟨evs ++ evs', by rw [htrace', htrace, List.append_assoc], hevs.join hevs'⟩

/-- Nothing sent is nothing failed. -/
theorem reports_nothing {t : State} (h : t.bus.trace = s.bus.trace) : s.Reports (.ok, t) :=
  ⟨[], by simp [h], .inl ⟨rfl, nofun⟩⟩

theorem reports_writeByte (code : Byte) : s.Reports (s.writeByte code) := by
  rcases writeByte_cases s code with ⟨_, h⟩ | ⟨k, hk, _, hst, h⟩ <;> rw [h]
  · exact ⟨_, rfl, reports_acceptedFrames _ _⟩
  · exact ⟨_, rfl, reports_cutFrames _ hk hst⟩

/-- The delay of a command byte comes after its report (R106). -/
theorem reports_cmdByte (b : Byte) : s.Reports (s.cmdByte b) := by
  obtain ⟨evs, htrace, hevs⟩ := reports_writeByte s b
  rw [cmdByte_eq]
  refine ⟨evs ++ [.wait s.cfg.tCmd], by simp [htrace], ?_⟩
  rwa [Status.Reports, txStatuses_append, show txStatuses [.wait s.cfg.tCmd] = [] from rfl, List.append_nil]

/-- Under `Abort` the loop's last byte makes the report, under `Continue` every byte does (R143). -/
theorem reports_sendText (text : List Byte) : s.Reports (State.sendText text s) := by
  induction text generalizing s with
  | nil => exact reports_nothing s rfl
  | cons c rest ih =>
    by_cases hc : c = 0
    · subst hc
      rw [sendText_null]
      exact reports_nothing s rfl
    · have hbyte := reports_writeByte s (glyphCode s.cfg c)
      rw [sendText_cons s hc]
      split
      · next hfailed =>
        obtain ⟨hne, _⟩ := hfailed
        rwa [← (writeByte_status s _).resolve_left hne]
      · exact hbyte.join (ih _)

theorem State.Reports.setPhase {s : State} {res : Status × State} (p : Phase) (h : s.Reports res) :
    s.Reports (res.1, res.2.setPhase p) := h

theorem State.Reports.joinThen {s : State} {res : Status × State} {k : State → Status × State} (h : s.Reports res)
    (hk : ∀ u : State, u.Reports (k u)) : s.Reports (State.joinThen res k) := h.join (hk res.2)

/-- `BusReady → FourBitMode`, after the address (R122). -/
theorem reports_enterFourBit : (s.setBus (s.bus.callSetAddress s.cfg.i2cAddr)).Reports s.enterFourBit := by
  refine State.Reports.setPhase .fourBitMode (State.Reports.joinThen ?_ fun u => reports_cmdByte u _)
  exact reports_cmdByte ((s.setBus (s.bus.callSetAddress s.cfg.i2cAddr)).setRegisterSelect .command) _

theorem reports_configure : s.Reports s.configure := by
  refine State.Reports.setPhase .configured (State.Reports.joinThen (reports_cmdByte s _) fun u => ?_)
  refine State.Reports.joinThen (reports_cmdByte u _) fun u => ?_
  exact State.Reports.joinThen (reports_cmdByte u _) fun u => reports_cmdByte u _

theorem reports_selftest : s.Reports s.selftest :=
  reports_sendText ((s.setBacklight true).setRegisterSelect .character) s.cfg.selftestText

/-- INIT's body, after `T.begin()` and the address (R126). -/
theorem reports_initBody (h : s.bus.beginAnswer 0 = true) :
    (s.setBus (s.bus.callBegin.2.callSetAddress s.cfg.i2cAddr)).Reports s.initBody := by
  rw [initBody_joinThen s h]
  refine State.Reports.joinThen (reports_enterFourBit ((s.setBus s.bus.callBegin.2).setPhase .busReady)) fun u => ?_
  exact State.Reports.joinThen (reports_configure u) reports_selftest

/-! ## The obligations -/

theorem exec_init (arg : Byte) (h : s.phase = .uninitialized) :
    exec (.init arg) s = .next (s.initBody.2.respond s.initBody.1) :=
  congrArg _ (operate_admitted s State.initBody h)

/-- Settles O24: the three parts of INIT in their order, each of them accepted. -/
theorem initSucceeds : Obligations.InitSucceeds := by
  intro s arg text n hphase hw hbegin ha
  have hn : n = 12 + (24 + 6 * text.length) := by omega
  rw [exec_init s arg hphase, initBody_accepted s hbegin hw (hn ▸ ha), ← hn]
  simp only [Bus.after, callBegin_trace, hbegin, List.append_assoc]
  rfl

/-- Settles O26: INIT's items lead to `Ready`, and its status is joined from the reports of its bytes. -/
theorem initAlwaysReachesReady : Obligations.InitAlwaysReachesReady := by
  intro s arg hphase hbegin
  obtain ⟨evs, htrace, hreports⟩ := reports_initBody s hbegin
  obtain ⟨bus, hbody⟩ := initBody_unchanged s hbegin
  have hexec := exec_init s arg hphase
  rw [hbody] at hexec htrace
  refine ⟨_, evs, s.initBody.1, hexec, rfl, rfl, rfl, ?_, rfl, hreports⟩
  simpa [Bus.callSetAddress, hbegin] using htrace

/-- Settles O25: `Begin->false`, and the body of INIT is over. -/
theorem initTransportCannotStart : Obligations.InitTransportCannotStart := by
  intro s arg hphase hbegin
  have hbody : s.initBody = (.errInit, (s.setBus s.bus.callBegin.2).setPhase .failed) := by simp [State.initBody, hbegin]
  rw [exec_init s arg hphase, hbody, ← hbegin]
  rfl

/-- Settles O27: in `Ready` TEARDOWN is its body, elsewhere it is refused. -/
theorem teardownReleases : Obligations.TeardownReleases :=
  fun s _ => ⟨fun hready => congrArg _ (operate_admitted s State.teardownBody hready),
    fun hphase => congrArg _ (operate_refused s State.teardownBody hphase)⟩

end Sys2Proof.Machine

/-! The obligations of 43_operations.md: the public operations run whole (R140 to R148, R151), what they and the other rows
leave unchanged (R154), and which instruction a step runs (R140).  A public operation is admission, one write of
`registerSelect`, and writes to the transport (`State.Serves`); a message is followed to its first failed byte. -/

namespace Sys2Proof

/-- The operations that send to the display in `Ready` and leave the phase alone (R143 to R147): what `exec_public` is about. -/
def Instr.isPublic : Instr → Bool
  | .msg _ _ | .clear _ | .home _ | .goto _ => true
  | .init _ | .teardown _ | .reserved6 _ | .reserved7 _ => false
  | .frameEnLow _ _ _ | .frameEnHigh _ _ _ | .frameRwSet _ _ _ _ => false
  | .lcdFourbit | .lcdFuncset | .lcdDispoff | .lcdClear | .lcdEntry | .lcdDispon | .lcdHome | .lcdSetddram _ => false
  | .glyph _ | .encode _ | .writeNibble _ | .writeByte _ | .cmdByte _ => false

end Sys2Proof

namespace Sys2Proof.Machine

variable (s : State)

/-! ## An operation whose body is known -/

/-- An admitted operation returns the status of its body (R140). -/
theorem operate_eq {need : Phase} {body : State → Status × State} {st : Status} {t : State} (hphase : s.phase = need)
    (hbody : body s = (st, t)) : s.operate need body = t.respond st := by
  rw [operate_admitted s body hphase, hbody]

theorem exec_msg {arg : Byte} {text : List Byte} {st : Status} {t : State} (hready : s.phase = .ready)
    (hbody : s.msgBody text = (st, t)) : exec (.msg arg text) s = .next (t.respond st) :=
  congrArg _ (operate_eq s hready hbody)

/-! ## What a public operation leaves unchanged -/

theorem State.Transmits.refl (s : State) : s.Transmits s := ⟨0, [], by rw [after_nothing, setBus_self]⟩

theorem State.Transmits.trans {s t u : State} (h : s.Transmits t) (h' : t.Transmits u) : s.Transmits u := by
  obtain ⟨m, evs, rfl⟩ := h
  obtain ⟨n, evs', rfl⟩ := h'
  exact ⟨m + n, evs ++ evs', by rw [setBus_bus, setBus_setBus, after_after]⟩

/-- The character loop only transmits, whatever its writes are answered (R144). -/
theorem transmits_sendText (text : List Byte) : s.Transmits (s.sendText text).2 := by
  induction text generalizing s with
  | nil => exact .refl s
  | cons c rest ih =>
    by_cases hc : c = 0
    · subst hc
      rw [sendText_null]
      exact .refl s
    · rw [sendText_cons s hc]
      split
      · exact transmits_writeByte s _
      · exact (transmits_writeByte s _).trans (ih _)

/-- What the body of a public operation may do: write `registerSelect`, then transmit (R144 to R147). -/
def State.Serves (s t : State) : Prop := ∃ v, (s.setRegisterSelect v).Transmits t

theorem State.Serves.refl (s : State) : s.Serves s := ⟨s.registerSelect, .refl s⟩

theorem serves_msgBody (text : List Byte) : s.Serves (s.msgBody text).2 := ⟨.character, transmits_sendText _ text⟩

theorem serves_command (b : Byte) : s.Serves ((s.setRegisterSelect .command).cmdByte b).2 :=
  ⟨.command, transmits_cmdByte _ b⟩

theorem serves_operate {need : Phase} {body : State → Status × State} (h : s.Serves (body s).2) :
    ∃ t st, s.operate need body = t.respond st ∧ s.Serves t := by
  by_cases hphase : s.phase = need
  · exact ⟨_, _, operate_admitted s body hphase, h⟩
  · exact ⟨s, _, operate_refused s body hphase, .refl s⟩

/-- Everything MSG, CLEAR, HOME or GOTO can do, admitted or refused: serve, and return one status (R140, R144 to R147). -/
theorem exec_public {i : Instr} (hi : i.isPublic = true) :
    ∃ t st, exec i s = .next (t.respond st) ∧ s.Serves t := by
  have run {need : Phase} {body : State → Status × State} (hexec : exec i s = .next (s.operate need body))
      (h : s.Serves (body s).2) : ∃ t st, exec i s = .next (t.respond st) ∧ s.Serves t := by
    obtain ⟨t, st, hrun, ht⟩ := serves_operate s h
    exact ⟨t, st, by rw [hexec, hrun], ht⟩
  cases i with
  | msg arg text => exact run rfl (serves_msgBody s text)
  | clear arg | home arg => exact run rfl (serves_command s _)
  | goto pos =>
    refine run rfl ?_
    split
    · exact serves_command s _
    · exact .refl s
  | _ => cases hi

theorem State.Serves.statuses {s t : State} (h : s.Serves t) : t.statuses = s.statuses := by
  obtain ⟨_, _, _, rfl⟩ := h
  rfl

/-- An admitted operation returns one status, whatever the transport answers (R140). -/
theorem exec_admitted_statuses {i : Instr} (h : Admitted s i) :
    ∃ t st, exec i s = .next t ∧ t.statuses = s.statuses ++ [st] := by
  by_cases hpublic : i.isPublic = true
  · obtain ⟨t, st, hexec, ht⟩ := exec_public s hpublic
    exact ⟨_, st, hexec, by rw [respond_statuses, ht.statuses]⟩
  · cases h with
    | init arg hphase =>
      cases hbegin : s.bus.beginAnswer 0 with
      | false => exact ⟨_, _, initTransportCannotStart s arg hphase hbegin, rfl⟩
      | true =>
        obtain ⟨t, _, st, hexec, _, _, _, _, hstatuses, _⟩ := initAlwaysReachesReady s arg hphase hbegin
        exact ⟨t, st, hexec, hstatuses⟩
    | teardown arg hphase => exact ⟨_, _, (teardownReleases s arg).1 hphase, rfl⟩
    | _ => exact absurd rfl hpublic

/-! ## A message, accepted or cut -/

/-- MSG_BODY on a transport that accepts the whole effective text (R143, R151). -/
theorem msgBody_accepted (text : List Byte) (hw : s.readWrite = .write)
    (ha : s.bus.accepts (6 * (effectiveText text).length)) :
    s.msgBody text = (.ok, (s.setRegisterSelect .character).setBus (s.bus.after (6 * (effectiveText text).length)
      (textEvents s.cfg s.backlightOn (effectiveText text)))) := by
  rw [State.msgBody, ← sendText_effectiveText]
  exact sendText_accepted (s.setRegisterSelect .character) _ hw rfl (effectiveText_no_null text) ha

/-- The bus where a message first fails: the characters `sent` accepted, then `c` cut at its frame `k` (R104, R143). -/
def State.busCutAt (sent : List Byte) (c : Byte) (k : Nat) (s : State) : Bus :=
  s.bus.after (6 * sent.length + k + 1) (textEvents s.cfg s.backlightOn sent ++ cutFrames s.cfg.tSettle
    (byteFrames (frameOf s.backlightOn .character) (glyphCode s.cfg c)) k (s.bus.writeAnswer (6 * sent.length + k)))

/-- A byte cut short, in the closed form of the statements (R104). -/
theorem writeByte_cut_frameOf (code : Byte) {k : Nat} (hw : s.readWrite = .write) (hk : k < 6) (ha : s.bus.accepts k)
    (hst : s.bus.writeAnswer k ≠ 0) :
    s.writeByte code = (.errIo, s.setBus (s.bus.after (k + 1) (cutFrames s.cfg.tSettle
      (byteFrames (frameOf s.backlightOn s.registerSelect) code) k (s.bus.writeAnswer k)))) := by
  rw [writeByte_cut s code hk ha hst, byteFrames_eq_frameOf s hw]

/-- The loop on a character whose byte fails (R143): the loop is over under `Abort` and goes on under `Continue`, and its
status is `ERR_IO` either way. -/
theorem sendText_of_failed {c : Byte} {t : State} (hc : c ≠ 0) (hbyte : s.writeByte (glyphCode s.cfg c) = (.errIo, t))
    (rest : List Byte) :
    State.sendText (c :: rest) s = (.errIo, if s.cfg.errPolicy = .abort then t else (State.sendText rest t).2) := by
  rw [sendText_cons s hc, hbyte]
  by_cases habort : s.cfg.errPolicy = .abort <;> simp [habort, Status.join]

section FirstFailure

variable {s} {sent : List Byte} {c : Byte} {k : Nat}
variable (hw : s.readWrite = .write) (hsent : (0 : Byte) ∉ sent) (hc : c ≠ 0) (hk : k < 6)
variable (ha : s.bus.accepts (6 * sent.length + k)) (hst : s.bus.writeAnswer (6 * sent.length + k) ≠ 0)
include hw hsent hc hk ha hst

/-- MSG_BODY up to its first failed byte, and what the policy makes of that failure (R143). -/
theorem msgBody_firstFailure (rest : List Byte) :
    s.msgBody (sent ++ c :: rest) =
      (.errIo, if s.cfg.errPolicy = .abort then (s.setRegisterSelect .character).setBus (s.busCutAt sent c k)
        else ((s.setBus (s.busCutAt sent c k)).msgBody rest).2) := by
  obtain ⟨hbefore, hafter⟩ := (accepts_add s.bus (6 * sent.length) k (textEvents s.cfg s.backlightOn sent)).mp ha
  have hbyte := writeByte_cut_frameOf ((s.setRegisterSelect .character).setBus
    (s.bus.after (6 * sent.length) (textEvents s.cfg s.backlightOn sent))) (glyphCode s.cfg c) hw hk hafter
    (by simpa using hst)
  simp only [setBus_bus, after_after, after_writeAnswer] at hbyte
  exact (sendText_append (s.setRegisterSelect .character) sent (c :: rest) hw rfl hsent hbefore).trans
    (sendText_of_failed _ hc hbyte rest)

/-- A message under `Abort` (R143, R144). -/
theorem msgBody_abort (habort : s.cfg.errPolicy = .abort) (rest : List Byte) :
    s.msgBody (sent ++ c :: rest) = (.errIo, (s.setRegisterSelect .character).setBus (s.busCutAt sent c k)) := by
  rw [msgBody_firstFailure hw hsent hc hk ha hst, if_pos habort]

/-- A message under `Continue` (R143, R144). -/
theorem msgBody_continue (hcontinue : s.cfg.errPolicy = .continueOn) (rest : List Byte) :
    s.msgBody (sent ++ c :: rest) = (.errIo, ((s.setBus (s.busCutAt sent c k)).msgBody rest).2) := by
  rw [msgBody_firstFailure hw hsent hc hk ha hst, if_neg (by simp [hcontinue])]

end FirstFailure

/-! ## The operations of one command byte -/

theorem command_accepted (b : Byte) (hw : s.readWrite = .write) (ha : s.bus.accepts 6) :
    (s.setRegisterSelect .command).cmdByte b =
      (.ok, (s.setRegisterSelect .command).setBus (s.bus.after 6 (commandEvents s.cfg s.backlightOn b))) :=
  succeeds_cmdByte (s.setRegisterSelect .command) b hw rfl ha

/-- The byte GOTO sends for each position of the two rows with the default parameters (R147, R148). -/
theorem gotoByte_standard (text : List Byte) (policy : ErrPolicy) : ∀ pos : Byte, pos.toNat ≤ 31 →
    setAddressByte (Config.standard text policy) (ddramAddress (Config.standard text policy) pos) =
      if pos.toNat < 16 then 0x80 + pos else 0xC0 + (pos - 16) := by
  show ∀ pos : Byte, pos.toNat ≤ 31 →
    (Default.cmdSetddram ||| ((Default.rowBase[pos.toNat / Default.cols]?).getD 0 +
      BitVec.ofNat 7 (pos.toNat % Default.cols)).setWidth 8 : Byte) = _
  decide

/-! ## What a step takes up -/

theorem fetch_of_idle {input : Input} {rest : List Input} (hidle : s.seq = none) (h : s.inputs = input :: rest) :
    s.fetch = fetchInput rest input := by
  simp [State.fetch, h, State.busy, hidle]

theorem fetch_busy_of_not_reset_or_pause {r : Run} (hseq : s.seq = some r)
    (h : ∀ more, s.inputs ≠ .reset :: more ∧ s.inputs ≠ .pause :: more) : s.fetch = .busy := by
  have hbusy : s.busy = true := by rw [State.busy, hseq]; rfl
  unfold State.fetch
  cases hinputs : s.inputs with
  | nil => rw [hbusy]; rfl
  | cons input rest =>
    rw [hbusy]
    cases input with
    | reset => exact absurd hinputs (h rest).1
    | pause => exact absurd hinputs (h rest).2
    | command | inner | primitive => rfl

theorem fetch_pause {rest : List Input} (h : s.inputs = .pause :: rest) : s.fetch = .pause rest := by
  unfold State.fetch
  rw [h]
  cases s.busy <;> rfl

theorem step_pause {rest : List Input} (h : s.inputs = .pause :: rest) : step s = .next (s.tick.setInputs rest) := by
  rw [step, fetch_pause s h]

theorem step_inner {i : Instr} {rest : List Input} (h : s.fetch = .inner i rest) :
    step s = exec i (s.setInputs rest) := by
  rw [step, h]

/-! ## The obligations -/

/-- Settles O32: a refusal is admission's one status, and what is admitted returns one status. -/
theorem exactlyOneStatus : Obligations.ExactlyOneStatus := by
  intro s i hi
  cases hadm : s.admission i with
  | some st =>
    refine ⟨_, st, exec_refused s hi hadm, rfl, ?_⟩
    rintro _ ⟨⟩
    exact ⟨rfl, rfl⟩
  | none =>
    obtain ⟨t, st, hexec, hstatuses⟩ := exec_admitted_statuses s (admitted_of_admission s hadm)
    exact ⟨t, st, hexec, hstatuses, nofun⟩

/-- Settles O33: the loop over the effective text, each of its bytes accepted. -/
theorem msgAccepted : Obligations.MsgAccepted :=
  fun s _ text hready hw ha => exec_msg s hready (msgBody_accepted s text hw ha)

/-- Settles O35: under `Abort` the loop is over with the first failed byte. -/
theorem msgAbortStopsAtFailedByte : Obligations.MsgAbortStopsAtFailedByte := by
  intro s arg sent rest c k n hready hw habort hsent hc hk ha hst
  exact exec_msg s hready (msgBody_abort hw hsent hc hk ha hst habort rest)

/-- Settles O36: under `Continue` the loop goes on behind the first failed byte as the body of a message of its own. -/
theorem msgContinueGoesOn : Obligations.MsgContinueGoesOn := by
  intro s arg sent rest c k n hready hw hcontinue hsent hc hk ha hst
  refine ⟨_, exec_msg (s.setBus (s.busCutAt sent c k)) hready rfl, ?_⟩
  rw [exec_msg s hready (msgBody_continue hw hsent hc hk ha hst hcontinue rest)]
  rw [State.respond, (serves_msgBody _ rest).statuses]
  rfl

/-- Settles O40: `pos` is inside the default geometry, and its byte is one of its row's. -/
theorem gotoAccepted : Obligations.GotoAccepted := by
  intro s pos hdefaults hready hw hpos ha
  have hrange : posInRange s.cfg pos = true := by
    rw [hdefaults]
    exact decide_eq_true (Nat.lt_succ_of_le hpos)
  have hbyte := gotoByte_standard s.cfg.selftestText s.cfg.errPolicy pos hpos
  rw [← hdefaults] at hbyte
  refine congrArg _ (operate_eq s hready ?_)
  rw [if_pos hrange, hbyte]
  exact command_accepted s _ hw ha

/-- Settles O42: admitted or refused, such an operation writes `registerSelect`, transmits and returns a status. -/
theorem publicOperationsFrame : Obligations.PublicOperationsFrame := by
  intro s arg text i hi
  have hpublic : i.isPublic = true := by rcases hi with rfl | rfl | rfl | rfl <;> rfl
  obtain ⟨_, st, hexec, _, n, evs, rfl⟩ := exec_public s hpublic
  exact ⟨_, evs, hexec, rfl, rfl, rfl, rfl, rfl, rfl, rfl, rfl, rfl, rfl, rfl⟩

/-- Settles O47: the public operations keep both fields, a reserved word writes a status, and no other row writes a
control bit. -/
theorem onlyInitAndTeardownWritePhase : Obligations.OnlyInitAndTeardownWritePhase := by
  intro s t i hexec hchanged
  have kept (h : t.phase = s.phase) (h' : t.backlightOn = s.backlightOn) : ∃ arg, i = .init arg ∨ i = .teardown arg :=
    hchanged.elim (absurd h) (absurd h')
  by_cases hpublic : i.isPublic = true
  · obtain ⟨_, _, hserves, _, _, _, rfl⟩ := exec_public s hpublic
    obtain rfl := Host.Outcome.next.inj (hserves.symm.trans hexec)
    exact kept rfl rfl
  · cases hi : i.isHost with
    | false =>
      have hbits := exec_bits_of_not_host s hi hexec
      exact kept (congrArg (·.1) hbits) (congrArg (·.2.1) hbits)
    | true =>
      cases i with
      | init arg => exact ⟨arg, .inl rfl⟩
      | teardown arg => exact ⟨arg, .inr rfl⟩
      | reserved6 arg | reserved7 arg =>
        obtain rfl := Host.Outcome.next.inj hexec
        exact kept rfl rfl
      | msg | clear | home | goto => exact absurd rfl hpublic
      | _ => cases hi

/-- Settles O38: the default clear command is `0x01`. -/
theorem clearAccepted : Obligations.ClearAccepted := by
  intro s arg hdefaults hready hw ha
  have hbyte : s.cfg.cmdClear = 0x01 := congrArg Config.cmdClear hdefaults
  rw [← hbyte]
  exact congrArg _ (operate_eq s hready (command_accepted s _ hw ha))

/-- Settles O39: the default return-to-origin command is `0x02`. -/
theorem homeAccepted : Obligations.HomeAccepted := by
  intro s arg hdefaults hready hw ha
  have hbyte : s.cfg.cmdHome = 0x02 := congrArg Config.cmdHome hdefaults
  rw [← hbyte]
  exact congrArg _ (operate_eq s hready (command_accepted s _ hw ha))

/-- Settles O54: what is fetched decides the step, and a fetch depends on whether the block is idle and on the next input. -/
theorem stepRunsTheDecodedInstruction : Obligations.StepRunsTheDecodedInstruction := by
  intro s rest
  refine ⟨fun hidle => ⟨fun w text hinputs => ?_, fun b v i hinputs hdecode => ?_, fun b v e hinputs hdecode => ?_,
    fun p hinputs => ?_, fun hinputs => ?_, fun hinputs => ?_⟩,
    fun ⟨r, hseq⟩ => ⟨fun hinputs => ⟨?_, ?_⟩, fun hinputs => step_pause s hinputs⟩⟩
  · have hfetch : s.fetch = .command (decodeCommand w text) rest := fetch_of_idle s hidle hinputs
    exact ⟨fun hgran => by rw [step, hfetch, hgran], fun hgran => by rw [step, hfetch, hgran]⟩
  · refine step_inner s ?_
    rw [fetch_of_idle s hidle hinputs, fetchInput, hdecode]
  · rw [step, fetch_of_idle s hidle hinputs, fetchInput, hdecode]
  · exact step_inner s (fetch_of_idle s hidle hinputs)
  · have hfetch : s.fetch = .nothing := by simp [State.fetch, hinputs, State.busy, hidle]
    rw [step, hfetch]
  · rw [step_pause s hinputs, tick_idle s hidle]
  · rw [step, fetch_busy_of_not_reset_or_pause s hseq hinputs]
  · obtain ⟨_, hkept, _⟩ := tick_setting s
    exact hkept

end Sys2Proof.Machine

/-! The obligations of 60_exceptions.md: the statuses and their codes (R161), the refusals (R165 to R167), what a failed
write does to CLEAR, HOME and GOTO (R163, R169), and what an operation does not depend on (R164, R170).  An admitted MSG,
CLEAR, HOME or GOTO is either the body of a message or one command byte (`exec_msg_of_ready`, `exec_oneByte`). -/

namespace Sys2Proof.Machine

variable (s : State)

/-! ## The operations of one command byte -/

/-- The operations that send one command byte, each with the byte it sends (R145 to R147). -/
inductive OneByte (cfg : Config) : Instr → Byte → Prop
  | clear (arg : Byte) : OneByte cfg (.clear arg) cfg.cmdClear
  | home (arg : Byte) : OneByte cfg (.home arg) cfg.cmdHome
  | goto (pos : Byte) (hpos : posInRange cfg pos = true) :
      OneByte cfg (.goto pos) (setAddressByte cfg (ddramAddress cfg pos))

/-- In `Ready` such an operation sets `registerSelect`, sends its byte and returns the byte's status (R145 to R147). -/
theorem exec_oneByte {i : Instr} {code : Byte} (h : OneByte s.cfg i code) (hready : s.phase = .ready) :
    exec i s = .next (((s.setRegisterSelect .command).cmdByte code).2.respond
      ((s.setRegisterSelect .command).cmdByte code).1) := by
  cases h with
  | clear arg | home arg => exact congrArg _ (operate_admitted s _ hready)
  | goto pos hpos => exact congrArg _ (operate_eq s hready (if_pos hpos))

/-- A command byte cut short at its frame `k`, in the closed form of the statements (R106, R163). -/
theorem command_cut (code : Byte) {k : Nat} (hw : s.readWrite = .write) (hk : k < 6) (ha : s.bus.accepts k)
    (hst : s.bus.writeAnswer k ≠ 0) :
    (s.setRegisterSelect .command).cmdByte code =
      (.errIo, (s.setRegisterSelect .command).setBus (s.bus.after (k + 1)
        (cutFrames s.cfg.tSettle (byteFrames (frameOf s.backlightOn .command) code) k (s.bus.writeAnswer k)
          ++ [.wait s.cfg.tCmd]))) := by
  rw [cmdByte_cut (s.setRegisterSelect .command) code hk ha hst,
    byteFrames_eq_frameOf (s.setRegisterSelect .command) hw]
  rfl

/-! ## An admitted MSG, CLEAR, HOME or GOTO -/

/-- Such an operation runs in `Ready`, and it is a message or sends one command byte (R143 to R147). -/
theorem msg_or_oneByte_of_admitted {arg : Byte} {text : List Byte} {i : Instr}
    (hi : i = .msg arg text ∨ i = .clear arg ∨ i = .home arg ∨ i = .goto arg) (hadm : s.admission i = none) :
    s.phase = .ready ∧ (i = .msg arg text ∨ ∃ code, OneByte s.cfg i code) := by
  rcases hi with rfl | rfl | rfl | rfl <;> cases admitted_of_admission s hadm
  case msg hready => exact ⟨hready, .inl rfl⟩
  case clear hready => exact ⟨hready, .inr ⟨_, .clear arg⟩⟩
  case home hready => exact ⟨hready, .inr ⟨_, .home arg⟩⟩
  case goto hready hpos => exact ⟨hready, .inr ⟨_, .goto arg hpos⟩⟩

/-- An operation that answers with its body's result returns one status, which reports the writes it made (R161). -/
theorem status_reports_of_exec {i : Instr} {res : Status × State} (hexec : exec i s = .next (res.2.respond res.1))
    (hserves : s.Serves res.2) (hreports : s.Reports res) :
    ∃ t evs st, exec i s = .next t ∧ t.bus.trace = s.bus.trace ++ evs ∧ t.statuses = s.statuses ++ [st] ∧
      st.Reports evs := by
  obtain ⟨evs, htrace, hevs⟩ := hreports
  exact ⟨_, evs, res.1, hexec, htrace, by rw [respond_statuses, hserves.statuses], hevs⟩

/-- In `Ready` MSG returns the status of its body (R140, R143). -/
theorem exec_msg_of_ready (arg : Byte) (text : List Byte) (hready : s.phase = .ready) :
    exec (.msg arg text) s = .next ((s.msgBody text).2.respond (s.msgBody text).1) :=
  exec_msg s hready rfl

/-- MSG_BODY writes `registerSelect` before it reads it (R143, R170). -/
theorem setRegisterSelect_msgBody (v : RegisterSelect) (text : List Byte) :
    (s.setRegisterSelect v).msgBody text = s.msgBody text := rfl

/-! ## The encoder inside a message -/

/-- No glyph code is the terminator, if the supported range has no `0x00` in it (R95). -/
theorem glyphCode_ne_null {cfg : Config} (hlo : 0 < cfg.encLo)
    (hfallback : cfg.encLo ≤ cfg.fallback ∧ cfg.fallback ≤ cfg.encHi) (c : Byte) : glyphCode cfg c ≠ 0 :=
  fun hnull => BitVec.not_le.mpr hlo (hnull ▸ (glyphCode_inRange hfallback c).1)

/-- The character as it is sent (R90, R91), with the terminator left as it is (R68). -/
def substituted (cfg : Config) (c : Byte) : Byte := if c = 0x00 then 0x00 else glyphCode cfg c

/-- The loop sends the encoded text as it sends the text itself: each code is encoded once more to itself, and none of
them is the terminator (R95, R164). -/
theorem sendText_map_substituted {cfg : Config} (hcfg : s.cfg = cfg) (hlo : 0 < cfg.encLo)
    (hfallback : cfg.encLo ≤ cfg.fallback ∧ cfg.fallback ≤ cfg.encHi) (text : List Byte) :
    State.sendText (text.map (substituted cfg)) s = State.sendText text s := by
  induction text generalizing s with
  | nil => rfl
  | cons c rest ih =>
    rw [List.map_cons]
    by_cases hc : c = 0
    · rw [substituted, if_pos hc, hc, sendText_null, sendText_null]
    · rw [substituted, if_neg hc, sendText_cons s (glyphCode_ne_null hlo hfallback c), sendText_cons s hc, hcfg,
        glyphCode_glyphCode hfallback, ih _ ((writeByte_cfg s _).trans hcfg)]

/-! ## The obligations -/

/-- Settles O37: the character loop does not tell the encoded text from the text, so MSG does not either, admitted or
refused. -/
theorem substitutionIsSilent : Obligations.SubstitutionIsSilent := by
  intro s arg text hlegal
  obtain ⟨hlo, hfallback⟩ := hlegal.glyphsNotNull
  by_cases hready : s.phase = .ready
  · have hbody : s.msgBody (text.map (substituted s.cfg)) = s.msgBody text :=
      sendText_map_substituted (s.setRegisterSelect .character) rfl hlo hfallback text
    exact (exec_msg s hready hbody).trans (exec_msg_of_ready s arg text hready).symm
  · have hadm (text : List Byte) : s.admission (.msg arg text) = some .errState := if_neg hready
    rw [exec_refused s rfl (hadm text), exec_refused s rfl (hadm _)]

/-- Settles O41: each of the three sends one command byte, and that byte is cut short. -/
theorem oneByteOperationsCutShort : Obligations.OneByteOperationsCutShort := by
  intro s i code arg k hready hw hi hk ha hst
  have hbyte : OneByte s.cfg i code := by
    rcases hi with ⟨rfl, rfl⟩ | ⟨rfl, rfl⟩ | ⟨rfl, hpos, rfl⟩
    · exact .clear arg
    · exact .home arg
    · exact .goto arg hpos
  rw [exec_oneByte s hbyte hready, command_cut s code hw hk ha hst]

/-- Settles O44: the status of a message, and that of a command byte, reports every write. -/
theorem statusReportsEveryWrite : Obligations.StatusReportsEveryWrite := by
  intro s arg text i hi hadm
  obtain ⟨hready, rfl | ⟨code, hbyte⟩⟩ := msg_or_oneByte_of_admitted s hi hadm
  · exact status_reports_of_exec s (exec_msg_of_ready s arg text hready) (serves_msgBody s text)
      (reports_sendText (s.setRegisterSelect .character) text)
  · exact status_reports_of_exec s (exec_oneByte s hbyte hready) (serves_command s code)
      (reports_cmdByte (s.setRegisterSelect .command) code)

/-- Settles O10: the codes by their table, which ends at 5. -/
theorem statusAndPhaseCodes : Obligations.StatusAndPhaseCodes := by
  refine ⟨rfl, rfl, rfl, rfl, rfl, rfl, rfl, rfl, rfl, rfl, rfl, rfl, fun st => ?_, fun p => ?_⟩
  · cases st <;> decide
  · cases p <;> decide

/-- Settles O29: the phase is what admission looks at first in these operations. -/
theorem refusedOutsideItsPhase : Obligations.RefusedOutsideItsPhase :=
  fun s _ _ => ⟨fun h => exec_refused s rfl (if_neg h), fun h =>
    ⟨exec_refused s rfl (if_neg h), exec_refused s rfl (if_neg h), exec_refused s rfl (if_neg h),
      exec_refused s rfl (if_neg h), exec_refused s rfl (if_neg h)⟩⟩

/-- Settles O30: admission refuses both words before it looks at the phase. -/
theorem reservedWordsAreIllegal : Obligations.ReservedWordsAreIllegal :=
  fun s _ => ⟨exec_refused s rfl rfl, exec_refused s rfl rfl⟩

/-- Settles O31: the default geometry has 32 positions, and admission refuses what is behind them. -/
theorem gotoOutOfRangeRefused : Obligations.GotoOutOfRangeRefused := by
  intro s pos hdefaults hready hpos
  have hrange : posInRange s.cfg pos = false := by
    rw [hdefaults]
    exact decide_eq_false (Nat.not_lt_of_le hpos)
  exact exec_refused s rfl (by simp [State.admission, hready, hrange])

/-- Settles O45: a message, and a command byte, writes `registerSelect` before anything else. -/
theorem nextOperationInheritsNothing : Obligations.NextOperationInheritsNothing := by
  intro s v arg text i hi hadm
  obtain ⟨hready, rfl | ⟨code, hbyte⟩⟩ := msg_or_oneByte_of_admitted s hi hadm
  · refine ⟨?_, _, exec_msg_of_ready s arg text hready⟩
    rw [exec_msg_of_ready (s.setRegisterSelect v) arg text hready, exec_msg_of_ready s arg text hready,
      setRegisterSelect_msgBody]
  · refine ⟨?_, _, exec_oneByte s hbyte hready⟩
    rw [exec_oneByte (s.setRegisterSelect v) hbyte hready, exec_oneByte s hbyte hready,
      setRegisterSelect_setRegisterSelect]

end Sys2Proof.Machine

/-! The obligations of 70_reset_and_hazards.md: the reset input (R180, R182), and how many frames an accepted operation
makes and how long they last at least (R195).  A part of an operation is described by these two numbers alone
(`State.Lasts`), which do not depend on what the frames carry, so `readWrite` may have any value; the numbers of parts that
follow each other add up. -/

namespace Sys2Proof.Machine

variable (s : State)

/-! ## The reset input -/

theorem fetch_reset {rest : List Input} (h : s.inputs = .reset :: rest) : s.fetch = .reset rest := by
  unfold State.fetch
  rw [h]
  cases s.busy <;> rfl

/-! ## Frames and waits on a transport that accepts -/

/-- If the next `n` writes are accepted, the result's state is at the bus of `s` after those writes and after events with
`n` frames and `w` microseconds of waits; the parameters stay. -/
def State.Lasts (s : State) (n : Nat) (w : Micros) (res : Status × State) : Prop :=
  s.bus.accepts n → res.2.cfg = s.cfg ∧
    ∃ evs, res.2.bus = s.bus.after n evs ∧ (txFrames evs).length = n ∧ totalWait evs = w

theorem lasts_nothing : s.Lasts 0 0 (.ok, s) := fun _ => ⟨rfl, [], by rw [after_nothing], rfl, rfl⟩

theorem State.Lasts.setPhase {s : State} {n : Nat} {w : Micros} {res : Status × State} (p : Phase)
    (h : s.Lasts n w res) : s.Lasts n w (res.1, res.2.setPhase p) := h

/-- One part of an operation, then the next: their frames and their waits add up (R195). -/
theorem State.Lasts.joinThen {s : State} {m n : Nat} {v w : Micros} {res : Status × State} {k : State → Status × State}
    (h : s.Lasts m v res) (hk : ∀ u : State, u.cfg = s.cfg → u.Lasts n w (k u)) :
    s.Lasts (m + n) (v + w) (State.joinThen res k) := fun ha => by
  obtain ⟨hcfg, evs, hbus, hframes, hwait⟩ := h (accepts_mono _ (Nat.le_add_right m n) ha)
  have hrest : res.2.bus.accepts n := by
    rw [hbus]
    exact ((accepts_add s.bus m n evs).mp ha).2
  obtain ⟨hcfg', evs', hbus', hframes', hwait'⟩ := hk res.2 hcfg hrest
  refine ⟨hcfg'.trans hcfg, evs ++ evs', ?_, ?_, ?_⟩
  · rw [State.joinThen, hbus', hbus, after_after]
  · rw [txFrames_append, List.length_append, hframes, hframes']
  · rw [totalWait_append, hwait, hwait']

/-- A byte makes six frames, each with its settling delay (R105). -/
theorem lasts_writeByte (code : Byte) : s.Lasts 6 (6 * s.cfg.tSettle) (s.writeByte code) := fun ha => by
  rw [writeByte_accepted s code ha]
  exact ⟨rfl, _, rfl, by rw [txFrames_acceptedFrames, byteFrames_length],
    by rw [totalWait_acceptedFrames, byteFrames_length, Nat.mul_comm]⟩

/-- The least duration of a command byte: six settling delays and its own (R105, R106). -/
def commandTime (cfg : Config) : Micros := 6 * cfg.tSettle + cfg.tCmd

theorem lasts_cmdByte (b : Byte) : s.Lasts 6 (commandTime s.cfg) (s.cmdByte b) := fun ha => by
  obtain ⟨_, evs, hbus, hframes, hwait⟩ := lasts_writeByte s b ha
  rw [cmdByte_eq, hbus, after_after]
  refine ⟨rfl, _, rfl, ?_, ?_⟩
  · rw [txFrames_append, List.length_append, hframes]
    rfl
  · rw [totalWait_append, hwait]
    rfl

/-- While bytes are accepted the character loop is one byte, then the loop over the rest (R143). -/
theorem sendText_cons_of_accepted {c : Byte} (hc : c ≠ 0) (rest : List Byte) (ha : s.bus.accepts 6) :
    State.sendText (c :: rest) s = State.joinThen (s.writeByte (glyphCode s.cfg c)) (State.sendText rest) := by
  have hok : (s.writeByte (glyphCode s.cfg c)).1 = .ok := by rw [writeByte_accepted s _ ha]
  rw [sendText_cons s hc, if_neg fun hfailed => hfailed.1 hok, State.joinThen]

theorem lasts_sendText (text : List Byte) (hnull : (0 : Byte) ∉ text) :
    s.Lasts (6 * text.length) (6 * s.cfg.tSettle * text.length) (State.sendText text s) := by
  induction text generalizing s with
  | nil => exact lasts_nothing s
  | cons c rest ih =>
    obtain ⟨hc, hrest⟩ := not_or.mp (mt List.mem_cons.mpr hnull)
    rw [List.length_cons, Nat.mul_succ, Nat.mul_succ, Nat.add_comm _ 6, Nat.add_comm _ (6 * s.cfg.tSettle)]
    intro ha
    rw [sendText_cons_of_accepted s (Ne.symm hc) rest (accepts_mono _ (Nat.le_add_right _ _) ha)]
    exact (lasts_writeByte s _).joinThen (fun u hcfg => hcfg ▸ ih u hrest) ha

/-- A message makes six frames a character of its effective text (R151, R195). -/
theorem lasts_msgBody (text : List Byte) :
    s.Lasts (6 * (effectiveText text).length) (6 * s.cfg.tSettle * (effectiveText text).length) (s.msgBody text) := by
  rw [State.msgBody, ← sendText_effectiveText]
  exact lasts_sendText (s.setRegisterSelect .character) _ (effectiveText_no_null text)

/-! ## INIT's parts -/

theorem lasts_cmdByte_of_cfg {cfg : Config} (b : Byte) (h : s.cfg = cfg) : s.Lasts 6 (commandTime cfg) (s.cmdByte b) :=
  h ▸ lasts_cmdByte s b

/-- `BusReady → FourBitMode`, after the address (R122). -/
theorem lasts_enterFourBit : (s.setBus (s.bus.callSetAddress s.cfg.i2cAddr)).Lasts (6 + 6)
    (commandTime s.cfg + commandTime s.cfg) s.enterFourBit := by
  refine State.Lasts.setPhase .fourBitMode (State.Lasts.joinThen ?_ fun u => lasts_cmdByte_of_cfg u _)
  exact lasts_cmdByte ((s.setBus (s.bus.callSetAddress s.cfg.i2cAddr)).setRegisterSelect .command) _

/-- `FourBitMode → Configured` (R123). -/
theorem lasts_configure : s.Lasts (6 + (6 + (6 + 6)))
    (commandTime s.cfg + (commandTime s.cfg + (commandTime s.cfg + commandTime s.cfg))) s.configure := by
  refine State.Lasts.setPhase .configured ((lasts_cmdByte s _).joinThen fun u hu => ?_)
  refine (lasts_cmdByte_of_cfg u _ hu).joinThen fun v hv => ?_
  refine (lasts_cmdByte_of_cfg v _ (hv.trans hu)).joinThen fun x hx => ?_
  exact lasts_cmdByte_of_cfg x _ (hx.trans (hv.trans hu))

/-- `Configured → Ready` (R124). -/
theorem lasts_selftest : s.Lasts (6 * (effectiveText s.cfg.selftestText).length)
    (6 * s.cfg.tSettle * (effectiveText s.cfg.selftestText).length) s.selftest :=
  State.Lasts.setPhase .ready (lasts_msgBody (s.setBacklight true) s.cfg.selftestText)

/-- INIT's body, after `T.begin()` and the address (R125). -/
theorem lasts_initBody (h : s.bus.beginAnswer 0 = true) :
    (s.setBus (s.bus.callBegin.2.callSetAddress s.cfg.i2cAddr)).Lasts
      (36 + 6 * (effectiveText s.cfg.selftestText).length)
      (6 * commandTime s.cfg + 6 * s.cfg.tSettle * (effectiveText s.cfg.selftestText).length) s.initBody := by
  have hframes (m : Nat) : 36 + m = 6 + 6 + (6 + (6 + (6 + 6)) + m) := by omega
  have hwait (c x : Nat) : 6 * c + x = c + c + (c + (c + (c + c)) + x) := by omega
  rw [hframes, hwait, initBody_joinThen s h]
  refine (lasts_enterFourBit ((s.setBus s.bus.callBegin.2).setPhase .busReady)).joinThen fun u hu => ?_
  rw [← show u.cfg = s.cfg from hu]
  exact (lasts_configure u).joinThen fun v hv => hv ▸ lasts_selftest v

/-! ## The obligations -/

/-- An operation whose body makes `n` frames and lasts `w` from `u` on does so altogether, if `u` is behind `s` by events
that are no frames and no waits. -/
theorem durations_of_exec {u : State} {pre : List Event} {i : Instr} {res : Status × State} {n : Nat} {w : Micros}
    (hexec : exec i s = .next (res.2.respond res.1)) (hlasts : u.Lasts n w res) (ha : u.bus.accepts n)
    (htrace : u.bus.trace = s.bus.trace ++ pre) (hframes : txFrames pre = []) (hwait : totalWait pre = 0) :
    ∃ t evs, exec i s = .next t ∧ t.bus.trace = s.bus.trace ++ evs ∧ (txFrames evs).length = n ∧ totalWait evs = w := by
  obtain ⟨_, evs, hbus, hn, hw⟩ := hlasts ha
  refine ⟨_, pre ++ evs, hexec, ?_, ?_, ?_⟩
  · rw [respond_bus, hbus, after_trace, htrace, List.append_assoc]
  · rw [txFrames_append, hframes, List.nil_append, hn]
  · rw [totalWait_append, hwait, Nat.zero_add, hw]

/-- Settles O46: a message, a command byte, or the parts of INIT, with the default delays put in. -/
theorem leastDurations : Obligations.LeastDurations := by
  intro s arg text i n w hdefaults hi ha
  have hsettle : s.cfg.tSettle = 1500 := congrArg Config.tSettle hdefaults
  have hcommand : commandTime s.cfg = 10500 := by
    rw [commandTime, hsettle, show s.cfg.tCmd = 1500 from congrArg Config.tCmd hdefaults]
  have hready {body : Status × State} (hexec : exec i s = .next (body.2.respond body.1)) (hlasts : s.Lasts n w body) :=
    durations_of_exec s hexec hlasts ha (List.append_nil _).symm rfl rfl
  rcases hi with ⟨hphase, rfl, rfl, rfl⟩ | ⟨hphase, hi, rfl, rfl⟩ | ⟨hphase, hbegin, rfl, rfl, rfl⟩
  · refine hready (exec_msg_of_ready s arg text hphase) ?_
    simpa only [hsettle] using lasts_msgBody s text
  · obtain ⟨code, hbyte⟩ : ∃ code, OneByte s.cfg i code := by
      rcases hi with rfl | rfl | ⟨rfl, hpos⟩
      · exact ⟨_, .clear arg⟩
      · exact ⟨_, .home arg⟩
      · refine ⟨_, .goto arg ?_⟩
        rw [hdefaults]
        exact decide_eq_true (Nat.lt_succ_of_le hpos)
    refine hready (exec_oneByte s hbyte hphase) ?_
    exact hcommand ▸ lasts_cmdByte (s.setRegisterSelect .command) code
  · have hlasts := lasts_initBody s hbegin
    rw [hcommand, hsettle] at hlasts
    refine durations_of_exec s (pre := [.began true, .setAddr s.cfg.i2cAddr]) (exec_init s arg hphase) hlasts ha ?_ rfl rfl
    simp [Bus.callSetAddress, hbegin]

/-- Settles O55: an operation in progress or not, the reset is what is fetched. -/
theorem resetFromEveryState : Obligations.ResetFromEveryState := by
  intro s rest h
  rw [step, fetch_reset s h]
  rfl

end Sys2Proof.Machine
